-- ==== Sys2Proof/Word.lean ====
section
/-! DEFINITION. The words of the block and the small closed types its operations move (00_scope.md R11, R12, R14). -/

namespace Sys2Proof

/-- A byte: 8 bits, unsigned (R12). -/
abbrev Byte := BitVec 8

/-- The CRC register and a checksum: 32 bits (R8 CRC_WIDTH). -/
abbrev Word32 := BitVec 32

/-- The bus address field of a frame: 11 bits (R8 ADDR_WIDTH, R81). -/
abbrev Addr11 := BitVec 11

/-- A legal target identifier: 5 bits, the operand of ENCODE and SET_TARGET and the TARGET element (R26, D7). -/
abbrev TargetId := BitVec 5

/-- The TGT field, address bits [10:5]: 6 bits (R82). -/
abbrev TargetField := BitVec 6

/-- The CMD field, address bits [4:0]: 5 bits (R83). -/
abbrev CommandField := BitVec 5

/-- ENCODE's `len` operand, 0 to 15 (R97, D8). -/
abbrev LenOperand := BitVec 4

/-- The kind of a wait (R14). -/
inductive Kind where
  | confirmation
  | checksum
deriving DecidableEq, Repr

/-- A Frame: address field and payload bytes, index 0 first (R80). A payload of more than 8 bytes is not a Frame:
`Frame.wf`. -/
structure Frame where
  addressField : Addr11
  payload : List Byte
deriving DecidableEq, Repr

/-- A value of the Frame type: at most 8 payload bytes (R84). -/
def Frame.wf (f : Frame) : Bool := decide (f.payload.length ≤ 8)

/-- What the dispatcher makes of a classifiable frame (R14). -/
inductive Event where
  | acknowledgement (success : Bool) (rawStatus : Byte)
  | checksumReport (value : Word32)
deriving DecidableEq, Repr

/-- The wait kind an event answers (R14 `kindOf`). -/
def Event.kindOf : Event → Kind
  | .acknowledgement _ _ => .confirmation
  | .checksumReport _ => .checksum

end Sys2Proof
end

