-- ==== Sys2Proof/Config.lean ====
section
/-! DEFINITION. The parameters the spec fixes (00_scope.md R8, R9), the ones it leaves to the model as arguments
(R10; 93_implementation_defined.md part 2), and the one free value (93_implementation_defined.md U3). -/

namespace Sys2Proof.Config

/-- CRC_POLY, the reflected polynomial (R8). -/
def crcPoly : Word32 := 0xEDB88320#32

/-- CRC_INITVAL, the initial register (R8). -/
def crcInitVal : Word32 := 0xFFFFFFFF#32

/-- CMD_LEGAL_MAX, the largest command ENCODE accepts (R8, R133). -/
def cmdLegalMax : Byte := 0x7F#8

/-- CMD_FIELD_MAX, the largest command that fits its field (R8, R83). -/
def cmdFieldMax : Byte := 0x1F#8

/-- TARGET_MAX, the largest legal target identifier (R8). -/
def targetMax : Nat := 0x1F

/-- PAYLOAD_MAX, the largest payload length in bytes (R8, R84). -/
def payloadMax : Nat := 8

/-- CMD_ERASE (R8, R85). -/
def cmdErase : Byte := 0x01#8

/-- CMD_BEGIN_WRITE (R8, R85). -/
def cmdBeginWrite : Byte := 0x02#8

/-- CMD_WRITE_DATA (R8, R85). -/
def cmdWriteData : Byte := 0x03#8

/-- CMD_END_WRITE (R8, R85). -/
def cmdEndWrite : Byte := 0x04#8

/-- CMD_REQUEST_CHECKSUM (R8, R85). -/
def cmdRequestChecksum : Byte := 0x05#8

/-- CMD_ACK as the 5-bit value DISPATCH compares (R8, R155). -/
def cmdAck : CommandField := 0x11#5

/-- CMD_CHECKSUM_REPORT as the 5-bit value DISPATCH compares (R8, R155). -/
def cmdChecksumReport : CommandField := 0x12#5

/-- ACK_SUCCESS, the status byte that means success (R8, R90). -/
def ackSuccess : Byte := 0xFF#8

/-- The host's chunk size in bytes (R9, R213). -/
def chunkSize : Nat := 4

/-- The host's fill byte (R9, R214). -/
def fillByte : Byte := 0xFF#8

/-- The host's progress interval in source bytes (R9, R215). -/
def progressInterval : Nat := 1024

/-- The parameter WIDE_CMD_RESULT: the address ENCODE builds for a command from 0x20 to 0x7F
(93_implementation_defined.md U3). -/
inductive WideCmdResult where
  | shiftOr
  | anyValue
  | refuse
deriving DecidableEq, Repr

/-- The parameters a model takes as an argument (93_implementation_defined.md part 2). -/
structure Params where
  targetReset : Option TargetId
  crcReset : Option Word32
  wideCmd : WideCmdResult
  beginPayload : List Byte
  endPayload : List Byte
  reqPayload : List Byte
deriving DecidableEq, Repr

/-- The spec's defaults (93_implementation_defined.md part 2). UNVERIFIED: decisions of the spec (D6, D10, D18, D24)
where its source is silent (log entries 4, 5, 8, 25). -/
def Params.default : Params :=
  { targetReset := none, crcReset := none, wideCmd := .shiftOr
    beginPayload := [], endPayload := [], reqPayload := [] }

/-- The host payload parameters are sequences of at most 8 bytes (D24). -/
def Params.wf (p : Params) : Bool :=
  decide (p.beginPayload.length ≤ payloadMax) && decide (p.endPayload.length ≤ payloadMax)
    && decide (p.reqPayload.length ≤ payloadMax)

/-- FREE VALUE: address bits [6:5] of a frame ENCODE builds for a command from 0x20 to 0x7F under
`WideCmdResult.anyValue`, "a fresh draw each time" (93_implementation_defined.md U3; log entry 9). -/
opaque freeWideBits : Nat → BitVec 2

end Sys2Proof.Config
end

