-- ==== Sys2Proof/Syntax.lean ====
section
/-! DEFINITION. The operations of the block and the frame commands: one constructor per row of spec/opcode_table.json
(00_scope.md R7; 30_encoding.md R85, R96, R97). -/

namespace Sys2Proof

/-- One row of the opcode table, with its operands (R97). -/
inductive Instr where
  /-- CRC_INIT, OPSEL 0x0 (R112). -/
  | crcInit
  /-- CRC_UPDATE b, OPSEL 0x1 (R113). -/
  | crcUpdate (b : Byte)
  /-- CRC_READ, OPSEL 0x2 (R114). -/
  | crcRead
  /-- CHECKSUM bytes, OPSEL 0x3 (R115): any length. -/
  | checksum (bytes : List Byte)
  /-- ENCODE target, command, len, payload, OPSEL 0x4 (R131). -/
  | encode (target : TargetId) (command : Byte) (len : LenOperand) (payload : List Byte)
  /-- DECODE frame, OPSEL 0x5 (R135). -/
  | decode (frame : Frame)
  /-- DISPATCH frame, OPSEL 0x6 (R151). -/
  | dispatch (frame : Frame)
  /-- ARM_WAIT kind, OPSEL 0x7 (R181). -/
  | armWait (kind : Kind)
  /-- CANCEL_WAIT, OPSEL 0x8 (R183). -/
  | cancelWait
  /-- TAKE_EVENT, OPSEL 0x9 (R185). -/
  | takeEvent
  /-- SET_TARGET id, OPSEL 0xA (R187). -/
  | setTarget (id : TargetId)
  /-- SET_VERBOSE flag, OPSEL 0xB (R189). -/
  | setVerbose (flag : Bool)
  /-- FRAME_ERASE, command 0x01, client to device (R85, R211). Its target bits are reg.TARGET's, no operand. -/
  | frameErase
  /-- FRAME_BEGIN_WRITE, command 0x02, client to device (R85, R212). -/
  | frameBeginWrite
  /-- FRAME_WRITE_DATA, command 0x03, client to device, exactly 4 payload bytes (R85, R87, R213). -/
  | frameWriteData (b0 b1 b2 b3 : Byte)
  /-- FRAME_END_WRITE, command 0x04, client to device (R85, R216). -/
  | frameEndWrite
  /-- FRAME_REQUEST_CHECKSUM, command 0x05, client to device (R85, R217). -/
  | frameRequestChecksum
  /-- FRAME_ACKNOWLEDGEMENT, command 0x11, device to client (R85, R153). All six TGT bits are free. -/
  | frameAcknowledgement (target : TargetField) (payload : List Byte)
  /-- FRAME_CHECKSUM_REPORT, command 0x12, device to client (R85, R152). -/
  | frameChecksumReport (target : TargetField) (payload : List Byte)
deriving DecidableEq, Repr

end Sys2Proof
end

