-- ==== Sys2Proof/WellFormed.lean ====
section
/-! DEFINITION. The checks on operands that the types of the syntax do not make: ENCODE's payload has `len` bytes (R97) and
a frame's payload has at most 8 (R84). -/

namespace Sys2Proof

/-- An operation whose operands fit R97. -/
def Instr.wf : Instr → Bool
  | .encode _ _ len payload => payload.length == len.toNat
  | .decode f => f.wf
  | .dispatch f => f.wf
  | .frameAcknowledgement _ payload => decide (payload.length ≤ 8)
  | .frameChecksumReport _ payload => decide (payload.length ≤ 8)
  | .crcInit => true
  | .crcUpdate _ => true
  | .crcRead => true
  | .checksum _ => true
  | .armWait _ => true
  | .cancelWait => true
  | .takeEvent => true
  | .setTarget _ => true
  | .setVerbose _ => true
  | .frameErase => true
  | .frameBeginWrite => true
  | .frameWriteData _ _ _ _ => true
  | .frameEndWrite => true
  | .frameRequestChecksum => true

/-- `Instr.wf` as a proposition. -/
abbrev Instr.WellFormed (i : Instr) : Prop := i.wf = true

end Sys2Proof
end

