-- ==== Sys2Proof/Decode.lean ====
section
/-! DEFINITION. From request bytes to an operation and back. The spec fixes two encodings: OPSEL, a 4-bit number per
operation (30_encoding.md R96, bookkeeping only), and CANID11, the address field of a frame (R81, R85). DESIGN CHOICE
(safe): how an OPSEL request lays out its operands in bytes is this model's (log entry 2). -/

namespace Sys2Proof

/-- The two formats of spec/opcode_table.json. -/
inductive Format where
  | opsel
  | canid11
deriving DecidableEq, Repr

/-- Why a request is no operation. Each of these is safe: the model stops where no operation is named. -/
inductive DecodeReject where
  /-- The request ends before its operands do. -/
  | truncated
  /-- Bytes follow the last operand. -/
  | trailing
  /-- An OPSEL code from 0xC to 0xF (U12). -/
  | reservedOpsel (code : Nat)
  /-- A bit above an operand's width is set (the 4 bits of OPSEL, the 5 of a target, the 4 of `len`). -/
  | reservedBits
  /-- The kind byte names neither kind. -/
  | badKind
  /-- The flag byte is neither 0 nor 1. -/
  | badFlag
  /-- An address above 0x7FF (R51). -/
  | addressRange
  /-- A frame of more than 8 payload bytes (U6). -/
  | frameTooLong
  /-- A frame word that is no row of the table (R91: its command has no name, or an outbound command with bit 10 set). -/
  | noFrameRow
deriving DecidableEq, Repr

/-- What decoding a request answers. -/
abbrev Decoded := Except DecodeReject Instr

namespace Decode

/-- The 11-bit address in two bytes, low byte first. -/
def address (lo hi : Byte) : Addr11 := (hi ++ lo).setWidth 11

/-- Low byte of an address. -/
def addressLo (a : Addr11) : Byte := a.setWidth 8

/-- High byte of an address: bits [10:8]. -/
def addressHi (a : Addr11) : Byte := (a >>> 8).setWidth 8

/-- A request without operands. -/
def noOperand (i : Instr) : List Byte → Decoded
  | [] => .ok i
  | _ :: _ => .error .trailing

/-- A request with one operand byte. -/
def oneByte (k : Byte → Decoded) : List Byte → Decoded
  | [] => .error .truncated
  | [b] => k b
  | _ :: _ :: _ => .error .trailing

/-- A request whose last operand is a payload of `n` bytes. -/
def counted (n : Nat) (payload : List Byte) (i : Instr) : Decoded :=
  if payload.length < n then .error .truncated
  else if n < payload.length then .error .trailing
  else .ok i

/-- The operand of DECODE and DISPATCH: a frame, as address (two bytes), payload length, payload (R98: the length is
carried beside the payload). -/
def frameOperand (k : Frame → Instr) : List Byte → Decoded
  | lo :: hi :: n :: payload =>
    if 8 ≤ hi.toNat then .error .addressRange
    else if 8 < n.toNat then .error .frameTooLong
    else counted n.toNat payload (k ⟨address lo hi, payload⟩)
  | _ => .error .truncated

/-- ENCODE's operands: target, command, len, payload (R97). -/
def encodeOperands : List Byte → Decoded
  | t :: c :: n :: payload =>
    if 0x1F < t.toNat then .error .reservedBits
    else if 15 < n.toNat then .error .reservedBits
    else counted n.toNat payload (.encode (t.setWidth 5) c (n.setWidth 4) payload)
  | _ => .error .truncated

/-- ARM_WAIT's kind byte. The source numbers no kinds (N4): log entry 2. -/
def kindOperand (b : Byte) : Decoded :=
  if b = 0#8 then .ok (.armWait .confirmation)
  else if b = 1#8 then .ok (.armWait .checksum)
  else .error .badKind

/-- SET_TARGET's identifier byte: 5 bits (R187). -/
def targetOperand (b : Byte) : Decoded :=
  if 0x1F < b.toNat then .error .reservedBits else .ok (.setTarget (b.setWidth 5))

/-- SET_VERBOSE's flag byte (R189). -/
def flagOperand (b : Byte) : Decoded :=
  if b = 0#8 then .ok (.setVerbose false)
  else if b = 1#8 then .ok (.setVerbose true)
  else .error .badFlag

/-- An OPSEL request: the code in bits [3:0] of the first byte (R96), then the operands. -/
def opsel : List Byte → Decoded
  | [] => .error .truncated
  | code :: operands =>
    match code.toNat with
    | 0x0 => noOperand .crcInit operands
    | 0x1 => oneByte (fun b => .ok (.crcUpdate b)) operands
    | 0x2 => noOperand .crcRead operands
    | 0x3 => .ok (.checksum operands)
    | 0x4 => encodeOperands operands
    | 0x5 => frameOperand .decode operands
    | 0x6 => frameOperand .dispatch operands
    | 0x7 => oneByte kindOperand operands
    | 0x8 => noOperand .cancelWait operands
    | 0x9 => noOperand .takeEvent operands
    | 0xA => oneByte targetOperand operands
    | 0xB => oneByte flagOperand operands
    | n => if n < 16 then .error (.reservedOpsel n) else .error .reservedBits

/-- The seven frame commands with a name (R85). -/
inductive FrameCommand where
  | erase
  | beginWrite
  | writeData
  | endWrite
  | requestChecksum
  | acknowledgement
  | checksumReport
deriving DecidableEq, Repr

/-- A CANID11 row of the opcode table: an address matches it when its bits under `mask` are `pattern`. -/
structure FrameRow where
  command : FrameCommand
  mask : Addr11
  pattern : Addr11
deriving DecidableEq, Repr

/-- The CANID11 rows of spec/opcode_table.json, in its order (R85). -/
def frameRows : List FrameRow :=
  [ ⟨.erase, 0x41F#11, 0x001#11⟩
  , ⟨.beginWrite, 0x41F#11, 0x002#11⟩
  , ⟨.writeData, 0x41F#11, 0x003#11⟩
  , ⟨.endWrite, 0x41F#11, 0x004#11⟩
  , ⟨.requestChecksum, 0x41F#11, 0x005#11⟩
  , ⟨.acknowledgement, 0x01F#11, 0x011#11⟩
  , ⟨.checksumReport, 0x01F#11, 0x012#11⟩ ]

/-- The row an address matches. -/
def frameRow (a : Addr11) : Option FrameRow :=
  frameRows.find? (fun r => decide (a &&& r.mask = r.pattern))

/-- Exactly 4 payload bytes (R87, Write-Data). -/
def fourBytes : List Byte → Decoded
  | [b0, b1, b2, b3] => .ok (.frameWriteData b0 b1 b2 b3)
  | _ :: _ :: _ :: _ :: _ :: _ => .error .trailing
  | _ => .error .truncated

/-- The payload of an inbound frame: its length, then its bytes (R84, R98). -/
def framePayload (k : List Byte → Instr) : List Byte → Decoded
  | [] => .error .truncated
  | n :: payload =>
    if 8 < n.toNat then .error .frameTooLong else counted n.toNat payload (k payload)

/-- What follows the address word of each frame row. -/
def frameRest (a : Addr11) (c : FrameCommand) (rest : List Byte) : Decoded :=
  match c with
  | .erase => noOperand .frameErase rest
  | .beginWrite => noOperand .frameBeginWrite rest
  | .writeData => fourBytes rest
  | .endWrite => noOperand .frameEndWrite rest
  | .requestChecksum => noOperand .frameRequestChecksum rest
  | .acknowledgement => framePayload (.frameAcknowledgement (a.extractLsb' 5 6)) rest
  | .checksumReport => framePayload (.frameChecksumReport (a.extractLsb' 5 6)) rest

/-- A CANID11 request: the address word, low byte first, then the payload. The target bits [9:5] of an outbound row are
no operand: they come from reg.TARGET when the row runs (R205; log entry 10). -/
def canid11 : List Byte → Decoded
  | lo :: hi :: rest =>
    if 8 ≤ hi.toNat then .error .addressRange
    else
      match frameRow (address lo hi) with
      | none => .error .noFrameRow
      | some r => frameRest (address lo hi) r.command rest
  | _ => .error .truncated

end Decode

/-- Decoding, total on any bytes of either format. -/
def decode : Format → List Byte → Decoded
  | .opsel => Decode.opsel
  | .canid11 => Decode.canid11

/-- The format of an operation's row. -/
def Instr.format : Instr → Format
  | .frameErase => .canid11
  | .frameBeginWrite => .canid11
  | .frameWriteData _ _ _ _ => .canid11
  | .frameEndWrite => .canid11
  | .frameRequestChecksum => .canid11
  | .frameAcknowledgement _ _ => .canid11
  | .frameChecksumReport _ _ => .canid11
  | .crcInit => .opsel
  | .crcUpdate _ => .opsel
  | .crcRead => .opsel
  | .checksum _ => .opsel
  | .encode _ _ _ _ => .opsel
  | .decode _ => .opsel
  | .dispatch _ => .opsel
  | .armWait _ => .opsel
  | .cancelWait => .opsel
  | .takeEvent => .opsel
  | .setTarget _ => .opsel
  | .setVerbose _ => .opsel

namespace Encode

/-- A frame operand: address, length, payload. -/
def frameOperand (f : Frame) : List Byte :=
  Decode.addressLo f.addressField :: Decode.addressHi f.addressField :: BitVec.ofNat 8 f.payload.length :: f.payload

/-- The kind byte of ARM_WAIT. -/
def kind : Kind → Byte
  | .confirmation => 0#8
  | .checksum => 1#8

/-- The flag byte of SET_VERBOSE. -/
def flag : Bool → Byte
  | false => 0#8
  | true => 1#8

/-- The address word of an outbound frame: 0, the five target bits, the command (R81, R85). -/
def outbound (t : TargetId) (c : CommandField) : List Byte :=
  let a : Addr11 := (0#1 ++ t ++ c)
  [Decode.addressLo a, Decode.addressHi a]

/-- An inbound frame: six target bits, the command, then the payload with its length (R81, R85). -/
def inbound (t : TargetField) (c : CommandField) (payload : List Byte) : List Byte :=
  frameOperand ⟨(t ++ c), payload⟩

end Encode

/-- The bytes of an operation; an outbound frame row carries target bits `t`, every other row takes no notice of `t`. -/
def encodeWith (t : TargetId) : Instr → List Byte
  | .crcInit => [0x00#8]
  | .crcUpdate b => [0x01#8, b]
  | .crcRead => [0x02#8]
  | .checksum bytes => 0x03#8 :: bytes
  | .encode target command len payload => 0x04#8 :: target.setWidth 8 :: command :: len.setWidth 8 :: payload
  | .decode f => 0x05#8 :: Encode.frameOperand f
  | .dispatch f => 0x06#8 :: Encode.frameOperand f
  | .armWait k => [0x07#8, Encode.kind k]
  | .cancelWait => [0x08#8]
  | .takeEvent => [0x09#8]
  | .setTarget id => [0x0A#8, id.setWidth 8]
  | .setVerbose b => [0x0B#8, Encode.flag b]
  | .frameErase => Encode.outbound t 0x01#5
  | .frameBeginWrite => Encode.outbound t 0x02#5
  | .frameWriteData b0 b1 b2 b3 => Encode.outbound t 0x03#5 ++ [b0, b1, b2, b3]
  | .frameEndWrite => Encode.outbound t 0x04#5
  | .frameRequestChecksum => Encode.outbound t 0x05#5
  | .frameAcknowledgement tgt payload => Encode.inbound tgt 0x11#5 payload
  | .frameChecksumReport tgt payload => Encode.inbound tgt 0x12#5 payload

/-- The bytes of an operation, with the target bits of an outbound row zero. -/
def encode (i : Instr) : List Byte := encodeWith 0#5 i

namespace Decode

/-- The bytes of a word, low byte first. -/
def wordBytes : Nat → Nat → List Byte
  | 0, _ => []
  | n + 1, w => BitVec.ofNat 8 w :: wordBytes n (w / 256)

/-- The format whose rows have `nbits` bits: OPSEL fits one byte, CANID11 takes two. -/
def formatOfWidth (nbits : Nat) : Format := if nbits ≤ 8 then .opsel else .canid11

/-- How many operand bytes an operation of the table has when all of them are zero. -/
def zeroOperands (fmt : Format) (w : Nat) : Nat :=
  match fmt with
  | .opsel =>
    match w with
    | 0x1 => 1
    | 0x4 => 3
    | 0x5 => 3
    | 0x6 => 3
    | 0x7 => 1
    | 0xA => 1
    | 0xB => 1
    | _ => 0
  | .canid11 =>
    match w % 32 with
    | 0x03 => 4
    | 0x11 => 1
    | 0x12 => 1
    | _ => 0

/-- The request a table word stands for: its bytes, low byte first, then operand bytes of zero. -/
def tableBytes (nbits w : Nat) : List Byte :=
  wordBytes ((nbits + 7) / 8) w ++ List.replicate (zeroOperands (formatOfWidth nbits) w) 0#8

end Decode

/-- The operation the decoder reads from a table word of `nbits` bits, operands zero. -/
def decodeTableWord (nbits w : Nat) : Option Instr :=
  match decode (Decode.formatOfWidth nbits) (Decode.tableBytes nbits w) with
  | .ok i => some i
  | .error _ => none

end Sys2Proof
end

