-- ==== Sys2Proof/Machine/State.lean ====
section
/-! DEFINITION. The state: the block's five elements (10_state.md R20), the configuration parameters, and the environment
that drives the block and records its outputs (R35 to R39). All plain data. -/

namespace Sys2Proof.Machine

/-- The two agents (20_memory.md R60). -/
inductive Agent where
  | command
  | receive
deriving DecidableEq, Repr

/-- The block: five elements and nothing else (R20). `none` in `crc` and `target` is the spec's own "unwritten"
(R22, R26), in `wait` "not armed" (R28), in `evt` "empty" (R29). -/
structure Block where
  crc : Option Word32
  target : Option TargetId
  verbose : Bool
  wait : Option Kind
  evt : Option Event
deriving DecidableEq, Repr

/-- The closed list of NOTE reasons (R38, R233). -/
inductive NoteReason where
  | unrecognisedCommand
  | shortPayload
  | noWaiter
  | kindMismatch
deriving DecidableEq, Repr

/-- What an operation returns to the agent that invoked it (R35, R97). -/
inductive Result where
  /-- CRC_READ and CHECKSUM. -/
  | word (v : Word32)
  /-- ENCODE, when it succeeds. -/
  | frame (f : Frame)
  /-- ENCODE, command above 0x7F (R133). -/
  | invalidCommand (command : Byte)
  /-- ENCODE, len above 8 (R134). -/
  | invalidLength (len : LenOperand)
  /-- DECODE. -/
  | fields (target : TargetField) (command : CommandField) (payload : List Byte)
  /-- CANCEL_WAIT. -/
  | wasArmed (b : Bool)
  /-- TAKE_EVENT. -/
  | event (e : Option Event)
  /-- A send the transport accepted (R200). -/
  | sent
  /-- A send the transport refused (R200). -/
  | transportError
deriving DecidableEq, Repr

/-- Why a shell call failed (R235). -/
inductive FailCause where
  | transportError
  | protocolTimeout
  | deviceRejected
deriving DecidableEq, Repr

/-- How a shell call ended (R203, R210, R217): what it returned and, in the same output, what its log line says (log entry
35). -/
inductive CallOutcome where
  /-- `setTargetIdentifier` or `setVerboseLogging` took effect. -/
  | accepted
  /-- A malformed identifier or an unreadable file (R203). -/
  | invalidInput
  /-- `erase` returned true. -/
  | erased
  /-- `queryChecksum` returned a value. -/
  | reported (value : Word32)
  /-- `uploadImage` returned true: local and reported checksum are equal. -/
  | verified (value : Word32)
  /-- `uploadImage` returned false: they differ. Both values are the log line's half (R217; log entry 35). -/
  | rejected (ours reported : Word32)
  /-- The call returned false, or absent (`queryChecksum`), whatever the cause: the caller gets the same return from a
  timeout, a rejection and a failed send (R206, R219). DESIGN CHOICE: `cause` is the log line's half of this output, kept
  beside the return (log entry 35). -/
  | failed (cause : FailCause)
deriving DecidableEq, Repr

/-- One output of the block or of the host over it, as it appears to the outside (R35, R37, R38). -/
inductive Output where
  /-- A result returned to an agent. -/
  | returned (agent : Agent) (r : Result)
  /-- The wake pulse (R37). -/
  | wake
  /-- A notification, with the frame it is about (R38). -/
  | note (reason : NoteReason) (frame : Frame)
  /-- A frame handed to the transport's `send` (R200, R205). -/
  | handed (frame : Frame)
  /-- The host's progress report: source bytes consumed (R215). -/
  | progress (bytes : Nat)
  /-- The host's report of an aborted write: chunks written and chunks failed (R213). -/
  | chunkCounts (written failed : Nat)
  /-- A shell call returned (R203). -/
  | finished (outcome : CallOutcome)
deriving DecidableEq, Repr

/-- What the bus presents to the transport. Only what fits the Frame type may reach DISPATCH (R84, R101, U6): the flags and
the widths here exist so that the rest can be refused. -/
structure BusFrame where
  extended : Bool
  remoteRequest : Bool
  identifier : Nat
  data : List Byte
deriving DecidableEq, Repr

/-- The shell's five entry points (R203). `uploadImage none` is a missing or unreadable file. -/
inductive ShellCall where
  | erase
  | uploadImage (file : Option (List Byte))
  | queryChecksum
  | setTargetIdentifier (id : Nat)
  | setVerboseLogging (flag : Bool)
deriving DecidableEq, Repr

/-- What the host does beside raw operations. -/
inductive HostAction where
  /-- Register DISPATCH as the receive callback (R264 duty 1). -/
  | onReceive
  /-- `startReceiving()` (R202, R264 duty 2). -/
  | startReceiving
  /-- The shell issues a call (R203); inside another call it waits its turn. -/
  | call (c : ShellCall)
  /-- The command flow takes the next step of the call it is in or, between calls, begins the oldest that waits. -/
  | resume
  /-- The deadline of the wait the command flow is suspended in passes (R207). -/
  | deadline
deriving DecidableEq, Repr

/-- One entry of the total order of R63. -/
inductive Invocation where
  /-- An agent invokes an operation, as request bytes. -/
  | operation (agent : Agent) (format : Format) (bytes : List Byte)
  /-- A frame arrives from the bus (R238). -/
  | arrival (f : BusFrame)
  /-- The host acts. -/
  | host (h : HostAction)
deriving DecidableEq, Repr

/-- The phases of an upload that end in an acknowledgement (R210): Erasing, BeginWrite, Writing(chunk i of N), EndWrite. -/
inductive Phase where
  | erasing
  | beginWrite
  | writing (chunk : Nat)
  | endWrite
deriving DecidableEq, Repr

/-- A command whose answer is an Acknowledgement: the shell's `erase`, or a phase of an upload (R206). -/
inductive AckJob where
  | erase
  | upload (image : List Byte) (ours : Word32) (phase : Phase)
deriving DecidableEq, Repr

/-- A command whose answer is a Checksum-Report: `queryChecksum`, or the phase Verifying (R208, R217). -/
inductive SumJob where
  | query
  | verify (ours : Word32)
deriving DecidableEq, Repr

/-- The command the synchronizer is about to issue or is waiting for. -/
inductive Job where
  | ack (j : AckJob)
  | sum (j : SumJob)
deriving DecidableEq, Repr

/-- Where the synchronizer stands in R206: each stage ends in one operation of the block. -/
inductive Stage where
  /-- About to ARM_WAIT (step a). -/
  | arm
  /-- About to send (step b). -/
  | send
  /-- Suspended (step c), no WAKE since it went to sleep. -/
  | asleep
  /-- Woken: about to TAKE_EVENT. -/
  | woken
  /-- The send failed: about to CANCEL_WAIT. -/
  | cancelling
  /-- The deadline found no wait to cancel: about to TAKE_EVENT (R184). -/
  | late
deriving DecidableEq, Repr

/-- Where the host's command flow is: between shell calls, or inside one. -/
inductive Flow where
  | idle
  | busy (job : Job) (stage : Stage)
deriving DecidableEq, Repr

/-- Everything outside the block that the step needs or records. No operation of the block reads it, but for the
transport's answer to a send. `calls` are the shell's calls that wait for the one in progress to return (R60, R203; log
entry 34). -/
structure Env where
  agenda : List Invocation
  turn : Agent
  callback : Bool
  receiving : Bool
  sendAnswers : List Bool
  flow : Flow
  calls : List ShellCall
  trace : List Output
deriving DecidableEq, Repr

/-- The machine: the block, the environment, the configuration (never written) and the counter of the free value. -/
structure State where
  block : Block
  env : Env
  cfg : Config.Params
  draws : Nat
deriving DecidableEq, Repr

/-- Why the machine stops with a fault: a contract violation to which the source gives no meaning (R230, R236). -/
inductive Fault where
  /-- Raised by ARM_WAIT while a wait is armed (R182). Safe: the source gives no outcome. -/
  | doubleArm
  /-- Raised by CRC_UPDATE and CRC_READ while CRC is unwritten (R113, R114). Safe: decision D10 of the spec. -/
  | crcUninitialised
  /-- Raised by outbound frame construction while TARGET is unwritten (R26, R205). Safe: decision D18 of the spec. -/
  | targetUnset
deriving DecidableEq, Repr

/-- Why the model declines an input. Each is safe: the model stops where the hardware may go on. -/
inductive Refusal where
  /-- An instruction without a meaning: raised by no arm of this model. -/
  | notModelled (mnemonic : String)
  /-- Raised by a request that decodes to no operation, OPSEL 0xC to 0xF among them (R96, U12). Safe. -/
  | undecodable (why : DecodeReject)
  /-- Raised by an arriving frame that does not fit the Frame type (R84, R101, U6). Safe. -/
  | outsideFrameType
  /-- Raised by an operation its agent may not invoke (R62, R246). Safe: a duty of the environment. -/
  | wrongAgent
  /-- Raised by ENCODE for a command from 0x20 to 0x7F when the parameter WIDE_CMD_RESULT is `refuse` (U3). Safe. -/
  | wideCommand
deriving DecidableEq, Repr

/-- An outcome of this machine. -/
abbrev Out := Host.Outcome State Fault Refusal

/-- The environment right after reset: nothing invoked, nothing registered, nothing recorded. -/
def Env.reset : Env :=
  { agenda := [], turn := .command, callback := false, receiving := false, sendAnswers := [], flow := .idle, calls := []
    trace := [] }

/-- The machine right after reset, for given parameters (70_reset_and_hazards.md R261). -/
def State.resetWith (p : Config.Params) : State :=
  { block := { crc := p.crcReset, target := p.targetReset, verbose := false, wait := none, evt := none }
    env := Env.reset, cfg := p, draws := 0 }

/-- The machine right after reset with the spec's default parameters. -/
def State.reset : State := State.resetWith Config.Params.default

end Sys2Proof.Machine
end

