-- ==== Sys2Proof/Machine/Ops.lean ====
section
/-! DEFINITION. The named operations over State that the meanings share: writing one element, returning a result, raising a
failure, emitting WAKE and NOTE, handing a frame to the transport. -/

namespace Sys2Proof.Machine

/-- Write CRC (R22). -/
def State.setCrc (s : State) (v : Word32) : State := { s with block := { s.block with crc := some v } }

/-- Write TARGET (R26). -/
def State.setTarget (s : State) (v : TargetId) : State := { s with block := { s.block with target := some v } }

/-- Write VERBOSE (R27). -/
def State.setVerbose (s : State) (v : Bool) : State := { s with block := { s.block with verbose := v } }

/-- Write WAIT (R28). -/
def State.setWait (s : State) (v : Option Kind) : State := { s with block := { s.block with wait := v } }

/-- Write EVT (R29). -/
def State.setEvt (s : State) (v : Option Event) : State := { s with block := { s.block with evt := v } }

/-- Record one output. -/
def State.output (s : State) (o : Output) : State := { s with env := { s.env with trace := s.env.trace ++ [o] } }

/-- Where the host's command flow stands. -/
def State.setFlow (s : State) (f : Flow) : State := { s with env := { s.env with flow := f } }

/-- The shell's calls that wait for their turn (R60, R203). -/
def State.setCalls (s : State) (cs : List ShellCall) : State := { s with env := { s.env with calls := cs } }

/-- Return a result to the agent whose operation runs (R35). -/
def State.answer (s : State) (r : Result) : State := s.output (.returned s.env.turn r)

/-- `raise` (R13, R240): the one thing the block has of an exception. The operation ends, writes no element of the block,
emits no WAKE and no NOTE, and its failure is its result; the caller carries on. There is nothing to return from (R244). -/
def raise (failure : Result) (s : State) : Out := .next (s.answer failure)

/-- A WAKE reaches a command flow that is asleep and no other: the pulse has no memory (R37). -/
def Flow.onWake : Flow → Flow
  | .busy j .asleep => .busy j .woken
  | .busy j .arm => .busy j .arm
  | .busy j .send => .busy j .send
  | .busy j .woken => .busy j .woken
  | .busy j .cancelling => .busy j .cancelling
  | .busy j .late => .busy j .late
  | .idle => .idle

/-- `emit WAKE` (R37). -/
def State.wake (s : State) : State := (s.output .wake).setFlow s.env.flow.onWake

/-- `emit NOTE(reason)` about a frame (R38). -/
def State.note (s : State) (reason : NoteReason) (f : Frame) : State := s.output (.note reason f)

/-- The transport's answer to the next send: accepted unless the environment has put a refusal there (R200; log entry 12). -/
def State.sendAccepted (s : State) : Bool := s.env.sendAnswers.headD true

/-- The result of a send (R200). -/
def sendResult (accepted : Bool) : Result := if accepted then .sent else .transportError

/-- `send(frame)`: the frame goes to the transport, which answers success or TransportError (R200). -/
def State.transmit (s : State) (f : Frame) : State :=
  let handed := s.output (.handed f)
  ({ handed with env := { handed.env with sendAnswers := handed.env.sendAnswers.tail } }).answer
    (sendResult s.sendAccepted)

/-- A draw of the free value has been used (93_implementation_defined.md U3). -/
def State.useDraw (s : State) : State := { s with draws := s.draws + 1 }

/-- Go on from a next state; a fault or a refusal stops. -/
def andThen (o : Out) (k : State → Out) : Out :=
  match o with
  | .next s => k s
  | .fault r => .fault r
  | .refused r => .refused r

end Sys2Proof.Machine
end

