-- ==== Sys2Proof/Machine/Operands.lean ====
section
/-! DEFINITION. Operand forms: assembling and splitting the address field (30_encoding.md R88, 41_frame_codec.md R131, R132,
R135), the big-endian value (20_memory.md R54), the CRC step (40_crc_engine.md R116), the host's chunks (R213, R214). -/

namespace Sys2Proof.Machine

/-- `(zext_11(target) << 5) | zext_11(command)`, 11 bits (R131). -/
def shiftOrAddress (target : TargetId) (command : Byte) : Addr11 :=
  (target.setWidth 11 <<< 5) ||| command.setWidth 11

/-- The address with bits [6:5] replaced (U3, `any value`). -/
def withBits65 (a : Addr11) (bits : BitVec 2) : Addr11 :=
  (a &&& ~~~(0x3#11 <<< 5)) ||| (bits.setWidth 11 <<< 5)

/-- A command that ENCODE accepts but that does not fit its field: 0x20 to 0x7F (R92, R132). -/
def isWide (command : Byte) : Bool := Config.cmdFieldMax < command && command ≤ Config.cmdLegalMax

/-- The address ENCODE builds under the parameter WIDE_CMD_RESULT, none where it refuses (R131, R132, U3). -/
def encodeAddress (p : Config.WideCmdResult) (drawn : BitVec 2) (target : TargetId) (command : Byte) : Option Addr11 :=
  if isWide command then
    match p with
    | .shiftOr => some (shiftOrAddress target command)
    | .anyValue => some (withBits65 (shiftOrAddress target command) drawn)
    | .refuse => none
  else some (shiftOrAddress target command)

/-- Address bits [10:5] (R135). -/
def targetOf (a : Addr11) : TargetField := a.extractLsb' 5 6

/-- Address bits [4:0] (R135). -/
def commandOf (a : Addr11) : CommandField := a.extractLsb' 0 5

/-- The address of a TGT field and a CMD field (R81). -/
def joinAddress (t : TargetField) (c : CommandField) : Addr11 := t ++ c

/-- `(p[0] << 24) | (p[1] << 16) | (p[2] << 8) | p[3]` (R54). -/
def bigEndian (p0 p1 p2 p3 : Byte) : Word32 :=
  (p0.setWidth 32 <<< 24) ||| (p1.setWidth 32 <<< 16) ||| (p2.setWidth 32 <<< 8) ||| p3.setWidth 32

/-- ENCODE's `len` for a payload the host passes whole: every length above 15 is named 15, which fails as it does (R97,
R134). -/
def lenOperand (payload : List Byte) : LenOperand := BitVec.ofNat 4 (min payload.length 15)

/-- One iteration of R116: shift towards bit 0, and the polynomial if the bit shifted out was 1. -/
def crcShift (r : Word32) : Word32 :=
  if r.getLsbD 0 then (r >>> 1) ^^^ Config.crcPoly else r >>> 1

/-- `n` iterations of R116. -/
def crcShifts : Nat → Word32 → Word32
  | 0, r => r
  | n + 1, r => crcShifts n (crcShift r)

/-- `crc_step(r, b)` (R116). -/
def crcStep (r : Word32) (b : Byte) : Word32 := crcShifts 8 (r ^^^ b.setWidth 32)

/-- The register after a byte sequence, from `r` (R110, R120). -/
def crcRun (r : Word32) : List Byte → Word32
  | [] => r
  | b :: rest => crcRun (crcStep r b) rest

/-- The entry `T[i]` of the table form (R117). -/
def crcTable (i : Byte) : Word32 := crcStep (i.setWidth 32) 0#8

/-- `checksum(bytes)` (R110): initial register, every byte, final complement. -/
def checksumOf (bytes : List Byte) : Word32 := ~~~(crcRun Config.crcInitVal bytes)

/-- The number of chunks of an image: `ceil(L / 4)` (R213). -/
def chunkCount (image : List Byte) : Nat := (image.length + (Config.chunkSize - 1)) / Config.chunkSize

/-- Payload index `j` of chunk `i`: image byte `4i + j`, or the fill byte past the end (R213, R214). -/
def chunkByte (image : List Byte) (i j : Nat) : Byte := image.getD (Config.chunkSize * i + j) Config.fillByte

end Sys2Proof.Machine
end

