-- ==== Sys2Proof/Machine/Flags.lean ====
section
/-! DEFINITION. What plays the part of flags (10_state.md R25): WAIT.armed, EVT.valid and the success bit of an
acknowledgement. Each is a component of an element, none is stored beside it. -/

namespace Sys2Proof.Machine

/-- WAIT.armed (R25 a). -/
def Block.armed (b : Block) : Bool := b.wait.isSome

/-- EVT.valid (R25 b). -/
def Block.evtValid (b : Block) : Bool := b.evt.isSome

/-- The success bit of a status byte (R25 c, R90): exactly 0xFF is success. -/
def statusSuccess (status : Byte) : Bool := status == Config.ackSuccess

end Sys2Proof.Machine
end

