-- ==== Sys2Proof/Machine/Codec.lean ====
section
/-! DEFINITION. The frame codec: ENCODE and DECODE (41_frame_codec.md). -/

namespace Sys2Proof.Machine

/-- What the function `encode(target, command, payload)` gives (R130, R143). -/
inductive EncodeOutcome where
  | built (f : Frame)
  | invalidCommand
  | invalidLength
  | wideRefused
deriving DecidableEq, Repr

/-- ENCODE as a function of its operands (R131): the command check first, then the length check (R141), then the address.
`drawn` is read only under WIDE_CMD_RESULT = `any value`. -/
def encodeFrame (p : Config.WideCmdResult) (drawn : BitVec 2) (target : TargetId) (command : Byte) (len : LenOperand)
    (payload : List Byte) : EncodeOutcome :=
  if Config.cmdLegalMax < command then .invalidCommand
  else if Config.payloadMax < len.toNat then .invalidLength
  else
    match encodeAddress p drawn target command with
    | none => .wideRefused
    | some a => .built ⟨a, payload.take len.toNat⟩

/-- The outcome of ENCODE in a state: the parameters are the state's, the draw is the next one. It reads no element of the
block (R140). -/
def State.encodeFrame (s : State) (target : TargetId) (command : Byte) (len : LenOperand) (payload : List Byte) :
    EncodeOutcome :=
  Sys2Proof.Machine.encodeFrame s.cfg.wideCmd (Config.freeWideBits s.draws) target command len payload

/-- The draw is used up by a wide command that reads it (U3). -/
def State.afterEncode (s : State) (command : Byte) : State :=
  if isWide command && s.cfg.wideCmd == .anyValue then s.useDraw else s

/-- ENCODE target, command, len, payload (R131). -/
def execEncode (target : TargetId) (command : Byte) (len : LenOperand) (payload : List Byte) (s : State) : Out :=
  match s.encodeFrame target command len payload with
  | .invalidCommand => raise (.invalidCommand command) s
  | .invalidLength => raise (.invalidLength len) s
  | .wideRefused => .refused .wideCommand
  | .built f => .next ((s.afterEncode command).answer (.frame f))

/-- DECODE frame (R135): total, the payload unchanged. -/
def execDecode (f : Frame) (s : State) : Out :=
  .next (s.answer (.fields (targetOf f.addressField) (commandOf f.addressField) f.payload))

end Sys2Proof.Machine
end

