-- ==== Sys2Proof/Machine/Configuration.lean ====
section
/-! DEFINITION. The configuration: SET_TARGET, SET_VERBOSE (43_wait_and_config.md section 2). -/

namespace Sys2Proof.Machine

/-- SET_TARGET id (R187): accepted in every state, a wait armed or not (R188). -/
def execSetTarget (id : TargetId) (s : State) : Out := .next (s.setTarget id)

/-- SET_VERBOSE flag (R189). -/
def execSetVerbose (flag : Bool) (s : State) : Out := .next (s.setVerbose flag)

end Sys2Proof.Machine
end

