-- ==== Sys2Proof/Machine/Crc.lean ====
section
/-! DEFINITION. The CRC engine: CRC_INIT, CRC_UPDATE, CRC_READ, CHECKSUM (40_crc_engine.md). -/

namespace Sys2Proof.Machine

/-- CRC_INIT (R112). -/
def execCrcInit (s : State) : Out := .next (s.setCrc Config.crcInitVal)

/-- CRC_UPDATE b (R113). -/
def execCrcUpdate (b : Byte) (s : State) : Out :=
  match s.block.crc with
  | none => .fault .crcUninitialised
  | some r => .next (s.setCrc (crcStep r b))

/-- CRC_READ (R114): the complement of CRC, which stays as it is. -/
def execCrcRead (s : State) : Out :=
  match s.block.crc with
  | none => .fault .crcUninitialised
  | some r => .next (s.answer (.word (~~~r)))

/-- CHECKSUM bytes (R115): CRC_INIT, CRC_UPDATE of every byte, CRC_READ, as one operation (R61). -/
def execChecksum (bytes : List Byte) (s : State) : Out :=
  .next ((s.setCrc (crcRun Config.crcInitVal bytes)).answer (.word (checksumOf bytes)))

end Sys2Proof.Machine
end

