-- ==== Sys2Proof/Machine/Dispatcher.lean ====
section
/-! DEFINITION. The frame dispatcher: DISPATCH (42_dispatcher.md). -/

namespace Sys2Proof.Machine

/-- The closed three-way result of classification (R162): an acknowledgement or a report, or unrecognised with a reason. -/
inductive Classification where
  | unrecognised (reason : NoteReason)
  | classified (e : Event)
deriving DecidableEq, Repr

/-- `classify(command, p)` (R162): a function of the command and the payload alone. -/
def classify (command : CommandField) (p : List Byte) : Classification :=
  if command = Config.cmdChecksumReport then
    match p with
    | p0 :: p1 :: p2 :: p3 :: _ => .classified (.checksumReport (bigEndian p0 p1 p2 p3))
    | _ => .unrecognised .shortPayload
  else if command = Config.cmdAck then
    match p with
    | p0 :: _ => .classified (.acknowledgement (statusSuccess p0) p0)
    | [] => .unrecognised .shortPayload
  else .unrecognised .unrecognisedCommand

/-- Delivery of a classified event into the wait slot (R156 matching, R157 no wait, R158 wait of the other kind). -/
def deliver (e : Event) (f : Frame) (s : State) : State :=
  match s.block.wait with
  | none => s.note .noWaiter f
  | some k =>
    if k = e.kindOf then ((s.setEvt (some e)).setWait none).wake
    else s.wake.note .kindMismatch f

/-- The whole of DISPATCH on a state (R151). -/
def dispatchFrame (f : Frame) (s : State) : State :=
  match classify (commandOf f.addressField) f.payload with
  | .unrecognised reason => s.note reason f
  | .classified e => deliver e f s

/-- DISPATCH frame (R151): one atomic step, enabled in every state, never failing (R159). -/
def execDispatch (f : Frame) (s : State) : Out := .next (dispatchFrame f s)

end Sys2Proof.Machine
end

