-- ==== Sys2Proof/Machine/FrameCommands.lean ====
section
/-! DEFINITION. The seven frame commands (30_encoding.md R85). Client to device: outbound frame construction, the pair
ENCODE reg.TARGET and `send` (45_host_boundary.md R205). Device to client: the frame is dispatched (R151 to R153). -/

namespace Sys2Proof.Machine

/-- `SEND cmd payload` (R205, R100): read TARGET, `ENCODE reg.TARGET cmd len(payload) payload`, hand the frame to the
transport. With TARGET unwritten: fault TargetUnset (R26). An ENCODE that fails hands over nothing (R240). -/
def sendCommand (command : Byte) (payload : List Byte) (s : State) : Out :=
  match s.block.target with
  | none => .fault .targetUnset
  | some t =>
    match s.encodeFrame t command (lenOperand payload) payload with
    | .invalidCommand => raise (.invalidCommand command) s
    | .invalidLength => raise (.invalidLength (lenOperand payload)) s
    | .wideRefused => .refused .wideCommand
    | .built f => .next ((s.afterEncode command).transmit f)

/-- FRAME_ERASE: `SEND 0x01 []` (R87, R211). -/
def execFrameErase (s : State) : Out := sendCommand Config.cmdErase [] s

/-- FRAME_BEGIN_WRITE: `SEND 0x02`, payload BEGIN_PAYLOAD, empty by default (R87, R212, D24). -/
def execFrameBeginWrite (s : State) : Out := sendCommand Config.cmdBeginWrite s.cfg.beginPayload s

/-- FRAME_WRITE_DATA: `SEND 0x03` with exactly 4 bytes, in file order (R57, R87, R213). -/
def execFrameWriteData (b0 b1 b2 b3 : Byte) (s : State) : Out := sendCommand Config.cmdWriteData [b0, b1, b2, b3] s

/-- FRAME_END_WRITE: `SEND 0x04`, payload END_PAYLOAD, empty by default (R87, R216, D24). -/
def execFrameEndWrite (s : State) : Out := sendCommand Config.cmdEndWrite s.cfg.endPayload s

/-- FRAME_REQUEST_CHECKSUM: `SEND 0x05`, payload REQ_PAYLOAD, empty by default (R87, R217, D24). -/
def execFrameRequestChecksum (s : State) : Out := sendCommand Config.cmdRequestChecksum s.cfg.reqPayload s

/-- FRAME_ACKNOWLEDGEMENT: the frame with command 0x11 is dispatched (R153). -/
def execFrameAcknowledgement (target : TargetField) (payload : List Byte) (s : State) : Out :=
  .next (dispatchFrame ⟨joinAddress target Config.cmdAck, payload⟩ s)

/-- FRAME_CHECKSUM_REPORT: the frame with command 0x12 is dispatched (R152). -/
def execFrameChecksumReport (target : TargetField) (payload : List Byte) (s : State) : Out :=
  .next (dispatchFrame ⟨joinAddress target Config.cmdChecksumReport, payload⟩ s)

end Sys2Proof.Machine
end

