-- ==== Sys2Proof/Machine/WaitSlot.lean ====
section
/-! DEFINITION. The wait slot: ARM_WAIT, CANCEL_WAIT, TAKE_EVENT (43_wait_and_config.md section 1). -/

namespace Sys2Proof.Machine

/-- ARM_WAIT kind (R181); on an armed slot the fault DoubleArm (R182). -/
def execArmWait (k : Kind) (s : State) : Out :=
  if s.block.armed then .fault .doubleArm else .next ((s.setWait (some k)).setEvt none)

/-- CANCEL_WAIT (R183): WAIT cleared, EVT kept, the result says whether a wait was armed. -/
def execCancelWait (s : State) : Out := .next ((s.setWait none).answer (.wasArmed s.block.armed))

/-- TAKE_EVENT (R185): the pending event, if any, is returned and discarded. -/
def execTakeEvent (s : State) : Out := .next ((s.setEvt none).answer (.event s.block.evt))

end Sys2Proof.Machine
end

