-- ==== Sys2Proof/Machine/Dispatch.lean ====
section
/-! DEFINITION. One arm per row of spec/opcode_table.json. -/

namespace Sys2Proof.Machine

def exec (i : Instr) (s : State) : Host.Outcome State Fault Refusal :=
  match i with
  -- CRC engine
  | .crcInit => Sys2Proof.Machine.execCrcInit s
  | .crcUpdate b => Sys2Proof.Machine.execCrcUpdate b s
  | .crcRead => Sys2Proof.Machine.execCrcRead s
  | .checksum bytes => Sys2Proof.Machine.execChecksum bytes s
  -- frame codec
  | .encode target command len payload => Sys2Proof.Machine.execEncode target command len payload s
  | .decode frame => Sys2Proof.Machine.execDecode frame s
  -- dispatcher
  | .dispatch frame => Sys2Proof.Machine.execDispatch frame s
  -- wait slot
  | .armWait kind => Sys2Proof.Machine.execArmWait kind s
  | .cancelWait => Sys2Proof.Machine.execCancelWait s
  | .takeEvent => Sys2Proof.Machine.execTakeEvent s
  -- configuration
  | .setTarget id => Sys2Proof.Machine.execSetTarget id s
  | .setVerbose flag => Sys2Proof.Machine.execSetVerbose flag s
  -- frame commands
  | .frameErase => Sys2Proof.Machine.execFrameErase s
  | .frameBeginWrite => Sys2Proof.Machine.execFrameBeginWrite s
  | .frameWriteData b0 b1 b2 b3 => Sys2Proof.Machine.execFrameWriteData b0 b1 b2 b3 s
  | .frameEndWrite => Sys2Proof.Machine.execFrameEndWrite s
  | .frameRequestChecksum => Sys2Proof.Machine.execFrameRequestChecksum s
  | .frameAcknowledgement target payload => Sys2Proof.Machine.execFrameAcknowledgement target payload s
  | .frameChecksumReport target payload => Sys2Proof.Machine.execFrameChecksumReport target payload s

end Sys2Proof.Machine
end

