-- ==== Sys2Proof/Machine/Orchestrator.lean ====
section
/-! DEFINITION. The Upload Orchestrator over the block (45_host_boundary.md R210 to R219): which command comes next, what its
answer settles, how a call ends. Host software, outside the block (00_scope.md R6). -/

namespace Sys2Proof.Machine

/-- The outbound frame of a command answered by an acknowledgement (R211 to R213, R216). -/
def AckJob.instr : AckJob → Instr
  | .erase => .frameErase
  | .upload _ _ .erasing => .frameErase
  | .upload _ _ .beginWrite => .frameBeginWrite
  | .upload image _ (.writing i) =>
    .frameWriteData (chunkByte image i 0) (chunkByte image i 1) (chunkByte image i 2) (chunkByte image i 3)
  | .upload _ _ .endWrite => .frameEndWrite

/-- The outbound frame of a command (R211 to R217). -/
def Job.instr : Job → Instr
  | .ack j => j.instr
  | .sum _ => .frameRequestChecksum

/-- The kind of wait a command is issued under (R206, R208). -/
def Job.kind : Job → Kind
  | .ack _ => .confirmation
  | .sum _ => .checksum

/-- The host turns to a command: ARM_WAIT comes next (R206). -/
def startJob (j : Job) (s : State) : State := s.setFlow (.busy j .arm)

/-- The shell call returns. -/
def finishCall (o : CallOutcome) (s : State) : State := (s.setFlow .idle).output (.finished o)

/-- Chunk `i` of an upload, or End-Write when every chunk is written (R210, R213): an image of 0 bytes has no chunk. DESIGN
CHOICE: no progress is reported for such an image, the report "at end" of R215 included (log entry 22). -/
def startChunk (image : List Byte) (ours : Word32) (i : Nat) (s : State) : State :=
  if i < chunkCount image then startJob (.ack (.upload image ours (.writing i))) s
  else startJob (.ack (.upload image ours .endWrite)) s

/-- Source bytes consumed once chunk `i` is written. -/
def consumedAfter (image : List Byte) (i : Nat) : Nat := min (Config.chunkSize * (i + 1)) image.length

/-- Progress is reported every 1024 source bytes and at the end (R215); DEDUCED: after the chunk's acknowledgement (log
entry 21), so never for an image without a chunk (log entry 22). -/
def reportProgress (image : List Byte) (i : Nat) (s : State) : State :=
  if consumedAfter image i % Config.progressInterval = 0 ∨ consumedAfter image i = image.length
  then s.output (.progress (consumedAfter image i)) else s

/-- After a successful acknowledgement: the linear sequence of R210. -/
def afterAck : AckJob → State → State
  | .erase, s => finishCall .erased s
  | .upload image ours .erasing, s => startJob (.ack (.upload image ours .beginWrite)) s
  | .upload image ours .beginWrite, s => startChunk image ours 0 s
  | .upload image ours (.writing i), s => startChunk image ours (i + 1) (reportProgress image i s)
  | .upload _ ours .endWrite, s => startJob (.sum (.verify ours)) s

/-- The chunk a command writes, if it is one. -/
def Job.chunk : Job → Option Nat
  | .ack (.upload _ _ (.writing i)) => some i
  | .ack (.upload _ _ .erasing) => none
  | .ack (.upload _ _ .beginWrite) => none
  | .ack (.upload _ _ .endWrite) => none
  | .ack .erase => none
  | .sum _ => none

/-- Every failure is terminal for the call, without retry (R219); a failed Write-Data reports its counts (R213). -/
def failCall (j : Job) (cause : FailCause) (s : State) : State :=
  match j.chunk with
  | some i => finishCall (.failed cause) (s.output (.chunkCounts i 1))
  | none => finishCall (.failed cause) s

/-- An acknowledgement settles its command: success goes on, any other status is DeviceRejected (R206, R235). -/
def settleAck (j : AckJob) (success : Bool) (s : State) : State :=
  if success then afterAck j s else failCall (.ack j) .deviceRejected s

/-- A report settles its command: the query returns it, the upload compares it with its own checksum (R123, R217). -/
def settleSum (j : SumJob) (value : Word32) (s : State) : State :=
  match j with
  | .query => finishCall (.reported value) s
  | .verify ours => if ours = value then finishCall (.verified value) s else finishCall (.rejected ours value) s

/-- What an event taken from the slot does for a command: none when it does not satisfy it (R191, R206, R208). -/
def Job.settle (j : Job) (e : Option Event) (s : State) : Option State :=
  match j, e with
  | .ack a, some (.acknowledgement success _) => some (settleAck a success s)
  | .sum b, some (.checksumReport value) => some (settleSum b value s)
  | .ack _, some (.checksumReport _) => none
  | .sum _, some (.acknowledgement _ _) => none
  | _, none => none

end Sys2Proof.Machine
end

