-- ==== Sys2Proof/Machine/Synchronizer.lean ====
section
/-! DEFINITION. The Command Synchronizer over the block (45_host_boundary.md R204 to R208): R206 step by step, one operation
of the block a step, so that a frame may arrive between any two (20_memory.md R63). -/

namespace Sys2Proof.Machine

/-- The next step of the command flow inside a shell call (R206, R208). Asleep, it has none: it "never polls" (R207). -/
def resumeFlow (s : State) : Out :=
  match s.env.flow with
  | .idle => .next s
  | .busy j .arm => andThen (exec (.armWait j.kind) s) (fun t => .next (t.setFlow (.busy j .send)))
  | .busy j .send =>
    andThen (exec j.instr s) (fun t =>
      .next (t.setFlow (.busy j (if s.sendAccepted then .asleep else .cancelling))))
  | .busy _ .asleep => .next s
  | .busy j .woken =>
    andThen (exec .takeEvent s) (fun t =>
      match j.settle s.block.evt t with
      | some u => .next u
      | none => .next (t.setFlow (.busy j .asleep)))
  | .busy j .cancelling => andThen (exec .cancelWait s) (fun t => .next (failCall j .transportError t))
  | .busy j .late =>
    andThen (exec .takeEvent s) (fun t =>
      match j.settle s.block.evt t with
      | some u => .next u
      | none => .next (failCall j .protocolTimeout t))

/-- The deadline of the wait in progress passes (R207): CANCEL_WAIT; a wait still armed is a timeout, otherwise a delivery
came first and the event is there to take (R184, R206). Outside a suspended wait there is no deadline. -/
def deadlineFlow (s : State) : Out :=
  match s.env.flow with
  | .busy j .asleep | .busy j .woken =>
    andThen (exec .cancelWait s) (fun t =>
      if s.block.armed then .next (failCall j .protocolTimeout t) else .next (t.setFlow (.busy j .late)))
  | .idle | .busy _ .arm | .busy _ .send | .busy _ .cancelling | .busy _ .late => .next s

end Sys2Proof.Machine
end

