-- ==== Sys2Proof/Machine/Shell.lean ====
section
/-! DEFINITION. The shell's five entry points (45_host_boundary.md R203). -/

namespace Sys2Proof.Machine

/-- A shell call begins (R203). InvalidInput is rejected before any
operation (R235). An upload takes its own checksum first, over the unpadded image (R123, R217; log entry 20). -/
def shellCall (c : ShellCall) (s : State) : Out :=
  match c with
  | .erase => .next (startJob (.ack .erase) s)
  | .queryChecksum => .next (startJob (.sum .query) s)
  | .uploadImage none => .next (s.output (.finished .invalidInput))
  | .uploadImage (some image) =>
    andThen (exec (.checksum image) s) (fun t => .next (startJob (.ack (.upload image (checksumOf image) .erasing)) t))
  | .setTargetIdentifier id =>
    if id ≤ Config.targetMax then
      andThen (exec (.setTarget (BitVec.ofNat 5 id)) s) (fun t => .next (t.output (.finished .accepted)))
    else .next (s.output (.finished .invalidInput))
  | .setVerboseLogging flag =>
    andThen (exec (.setVerbose flag) s) (fun t => .next (t.output (.finished .accepted)))

/-- The oldest call that waits begins; with none waiting the command flow has nothing to do. -/
def nextCall (s : State) : Out :=
  match s.env.calls with
  | [] => .next s
  | c :: rest => shellCall c (s.setCalls rest)

/-- What the host does beside raw operations (R202, R203, R264). The command flow is "a single sequential flow" (R60) and
the shell single-threaded (R203): a call issued inside another begins once that one has returned (log entry 34). -/
def hostAct (h : HostAction) (s : State) : Out :=
  match h with
  | .onReceive => .next { s with env := { s.env with callback := true } }
  | .startReceiving => .next { s with env := { s.env with receiving := true } }
  | .call c =>
    let waiting := s.setCalls (s.env.calls ++ [c])
    if s.env.flow = .idle then nextCall waiting else .next waiting
  | .resume => if s.env.flow = .idle then nextCall s else resumeFlow s
  | .deadline => deadlineFlow s

end Sys2Proof.Machine
end

