-- ==== Sys2Proof/Machine/Agenda.lean ====
section
/-! DEFINITION. One entry of the total order of invocations (20_memory.md R60 to R63): decoding a request, the agents'
rights, an arriving frame. What stands in place of fetching an instruction (R24, R68). -/

namespace Sys2Proof.Machine

/-- The agent an operation belongs to (R62; a frame command by its direction, R85). -/
def homeAgent : Instr → Agent
  | .crcInit => .command
  | .crcUpdate _ => .command
  | .crcRead => .command
  | .checksum _ => .command
  | .encode _ _ _ _ => .command
  | .decode _ => .command
  | .dispatch _ => .receive
  | .armWait _ => .command
  | .cancelWait => .command
  | .takeEvent => .command
  | .setTarget _ => .command
  | .setVerbose _ => .command
  | .frameErase => .command
  | .frameBeginWrite => .command
  | .frameWriteData _ _ _ _ => .command
  | .frameEndWrite => .command
  | .frameRequestChecksum => .command
  | .frameAcknowledgement _ _ => .receive
  | .frameChecksumReport _ _ => .receive

/-- DECODE on its own is a pure function that either agent may use (R62). -/
def isDecode : Instr → Bool
  | .decode _ => true
  | .crcInit | .crcUpdate _ | .crcRead | .checksum _ | .encode _ _ _ _ | .dispatch _ | .armWait _ | .cancelWait
  | .takeEvent | .setTarget _ | .setVerbose _ | .frameErase | .frameBeginWrite | .frameWriteData _ _ _ _
  | .frameEndWrite | .frameRequestChecksum | .frameAcknowledgement _ _ | .frameChecksumReport _ _ => false

/-- Which agent may invoke which operation (R62). -/
def mayInvoke (a : Agent) (i : Instr) : Bool := a == homeAgent i || isDecode i

/-- An agent invokes an operation given as request bytes. The block accepts it whatever the host is about: that the command
flow invokes nothing else during a wait (R64, R268) is the host's duty (R188, "The block accepts it all the same"). -/
def runRequest (a : Agent) (fmt : Format) (bytes : List Byte) (s : State) : Out :=
  match decode fmt bytes with
  | .error why => .refused (.undecodable why)
  | .ok i =>
    if mayInvoke a i then exec i s else .refused .wrongAgent

/-- A bus frame as a value of the Frame type, none where the type cannot express it (R84, R101, U6). -/
def BusFrame.toFrame (f : BusFrame) : Option Frame :=
  if f.extended || f.remoteRequest || decide (2 ^ 11 ≤ f.identifier) || decide (Config.payloadMax < f.data.length)
  then none else some ⟨BitVec.ofNat 11 f.identifier, f.data⟩

/-- The transport hands arriving frames to DISPATCH once the callback is registered and reception started (R201, R202, R264). -/
def State.receiverStarted (s : State) : Bool := s.env.callback && s.env.receiving

/-- A frame arrives (R201, R238): before reception is started none reaches DISPATCH (R202). -/
def receiveArrival (f : BusFrame) (s : State) : Out :=
  if s.receiverStarted then
    match f.toFrame with
    | none => .refused .outsideFrameType
    | some g => exec (.dispatch g) s
  else .next s

/-- The agent whose turn an entry is. -/
def Invocation.agent : Invocation → Agent
  | .operation a _ _ => a
  | .arrival _ => .receive
  | .host _ => .command

/-- An entry leaves the agenda and its agent has the turn. -/
def State.begin (s : State) (inv : Invocation) (rest : List Invocation) : State :=
  { s with env := { s.env with agenda := rest, turn := inv.agent } }

/-- One entry of the agenda, performed. -/
def perform (inv : Invocation) (s : State) : Out :=
  match inv with
  | .operation a fmt bytes => runRequest a fmt bytes s
  | .arrival f => receiveArrival f s
  | .host h => hostAct h s

/-- The agent under whose name a table word is placed. -/
def tableAgent (nbits w : Nat) : Agent :=
  match decodeTableWord nbits w with
  | some i => homeAgent i
  | none => .command

/-- A table word as an entry of the agenda. -/
def tableInvocation (nbits w : Nat) : Invocation :=
  .operation (tableAgent nbits w) (Decode.formatOfWidth nbits) (Decode.tableBytes nbits w)

end Sys2Proof.Machine
end

