-- ==== Sys2Proof/Machine/Step.lean ====
section
/-! DEFINITION. One step: the next entry of the agenda. The block fetches nothing (10_state.md R24): which operation comes
next is the agents' choice, held as data in the environment (log entries 1, 33). -/

namespace Sys2Proof.Machine

/-- One step (R61, R63). With nothing left to invoke the machine stays as it is (R277; log entry 3). -/
def step (s : State) : Host.Outcome State Fault Refusal :=
  match s.env.agenda with
  | [] => .next s
  | inv :: rest => perform inv (s.begin inv rest)

/-- The state with a table word as the next entry of the agenda. -/
def State.withFetchWord (s : State) (nbits w : Nat) : State :=
  { s with env := { s.env with agenda := tableInvocation nbits w :: s.env.agenda } }

end Sys2Proof.Machine
end

