-- ==== Sys2Proof/Safety.lean ====
section
/-! DEFINITION. The terms in which claims are stated: what a state outputs, the invariants of 10_state.md R31 to R33, the
launch premises of R265, the end of a run of R277, the discipline of the host of R209. -/

namespace Sys2Proof.Safety

open Sys2Proof.Machine

/-- The state with another block, everything else as it is. -/
def withBlock (s : State) (b : Block) : State := { s with block := b }

/-- The state after the given outputs, everything else as it is. -/
def outputs (s : State) (os : List Output) : State := { s with env := { s.env with trace := s.env.trace ++ os } }

/-- The state after a result has gone to the agent that invoked the operation (R35), everything else as it is. -/
def returns (s : State) (r : Result) : State := outputs s [.returned s.env.turn r]

/-- The state after the given outputs, a WAKE among them: a sleeping command flow is woken (R37). -/
def wakes (s : State) (os : List Output) : State :=
  { s with env := { s.env with trace := s.env.trace ++ os, flow := s.env.flow.onWake } }

/-- A list of operations, one after the other; a fault or a refusal stops. -/
def execAll : List Instr → State → Out
  | [], s => .next s
  | i :: rest, s => andThen (exec i s) (execAll rest)

/-- A next state changed, a fault or a refusal as it is. -/
def mapNext (g : State → State) (o : Out) : Out := andThen o (fun t => .next (g t))

/-- The state with another VERBOSE (R27). -/
def withVerbose (s : State) (v : Bool) : State := withBlock s { s.block with verbose := v }

/-- The frame the layout of R81 and R85 gives an outbound command: bit 10 zero, the target, the command. -/
def outboundFrame (t : TargetId) (c : CommandField) (payload : List Byte) : Frame := ⟨0#1 ++ t ++ c, payload⟩

/-- The frame the layout of R81 gives six target bits and a command. -/
def inboundFrame (t : TargetField) (c : CommandField) (payload : List Byte) : Frame := ⟨t ++ c, payload⟩

/-- The state after a frame has been handed to the transport and its answer, the next of the environment's, returned
(R200, R205). -/
def sends (s : State) (f : Frame) : State :=
  { s with env := { s.env with
      sendAnswers := s.env.sendAnswers.tail
      trace := s.env.trace ++ [.handed f, .returned s.env.turn
        (if s.env.sendAnswers.headD true = true then .sent else .transportError)] } }

/-- The OPSEL number of an operation (30_encoding.md R96); the frame commands have none. -/
def opselOf : Instr → Option Nat
  | .crcInit => some 0x0
  | .crcUpdate _ => some 0x1
  | .crcRead => some 0x2
  | .checksum _ => some 0x3
  | .encode _ _ _ _ => some 0x4
  | .decode _ => some 0x5
  | .dispatch _ => some 0x6
  | .armWait _ => some 0x7
  | .cancelWait => some 0x8
  | .takeEvent => some 0x9
  | .setTarget _ => some 0xA
  | .setVerbose _ => some 0xB
  | .frameErase => none
  | .frameBeginWrite => none
  | .frameWriteData _ _ _ _ => none
  | .frameEndWrite => none
  | .frameRequestChecksum => none
  | .frameAcknowledgement _ _ => none
  | .frameChecksumReport _ _ => none

/-- The checksum of a sequence, least significant byte first (R124). -/
def leastFirst (c : Word32) : List Byte :=
  [c.extractLsb' 0 8, c.extractLsb' 8 8, c.extractLsb' 16 8, c.extractLsb' 24 8]

/-- The operations of the receive flow (R62): DISPATCH and the two inbound rows, which are dispatched (R85, R152,
R153). -/
def ReceiveOperation (i : Instr) : Prop :=
  (∃ f, i = .dispatch f) ∨ (∃ t p, i = .frameAcknowledgement t p) ∨ (∃ t p, i = .frameChecksumReport t p)

/-- The operations that can change the wait slot (R192). -/
def TouchesSlot (i : Instr) : Prop :=
  (∃ f, i = .dispatch f) ∨ (∃ k, i = .armWait k) ∨ i = .cancelWait ∨ i = .takeEvent
    ∨ (∃ t p, i = .frameAcknowledgement t p) ∨ (∃ t p, i = .frameChecksumReport t p)

/-- Never both armed and pending (R32). -/
def SlotExclusive (b : Block) : Prop := b.wait = none ∨ b.evt = none

/-- A pending acknowledgement's success bit says whether its status is 0xFF (R33). -/
def AckConsistent (b : Block) : Prop :=
  ∀ success status, b.evt = some (.acknowledgement success status) → success = decide (status = 0xFF#8)

/-- Launch premise SlotIdle (R265). -/
def SlotIdle (s : State) : Prop := s.block.wait = none ∧ s.block.evt = none

/-- Launch premise TargetSet (R265). -/
def TargetSet (s : State) : Prop := s.block.target ≠ none

/-- Launch premise ReceiverStarted (R265). -/
def ReceiverStarted (s : State) : Prop := s.env.callback = true ∧ s.env.receiving = true

/-- The end of a run (R277): the command flow has nothing more to invoke and the slot is idle; frames may still
arrive. -/
def RunOver (s : State) : Prop :=
  (∀ inv ∈ s.env.agenda, inv.agent = .receive) ∧ s.env.flow = .idle ∧ s.env.calls = [] ∧ s.block.wait = none

/-- The rest of the agenda has the command flow act through shell calls only (R203, R209). -/
def ShellOnly (agenda : List Invocation) : Prop :=
  ∀ inv ∈ agenda, ∀ fmt bytes, inv ≠ .operation .command fmt bytes

/-- Where the host's command flow stands, no wait of another command is outstanding (R209): between calls, before it
arms, and after its deadline found nothing to cancel, no wait is armed. -/
def FlowClear (s : State) : Prop :=
  match s.env.flow with
  | .idle => s.block.wait = none
  | .busy _ .arm => s.block.wait = none
  | .busy _ .late => s.block.wait = none
  | .busy _ .send => True
  | .busy _ .asleep => True
  | .busy _ .woken => True
  | .busy _ .cancelling => True

/-- Between arming and the end of its wait, the slot holds only the kind the command flow armed (R191). -/
def FlowKind (s : State) : Prop :=
  match s.env.flow with
  | .idle => True
  | .busy _ .arm => True
  | .busy j .send => SlotOfKind s.block j.kind
  | .busy j .asleep => SlotOfKind s.block j.kind
  | .busy j .woken => SlotOfKind s.block j.kind
  | .busy j .cancelling => SlotOfKind s.block j.kind
  | .busy j .late => SlotOfKind s.block j.kind
where
  /-- What is armed or pending has kind `k`. -/
  SlotOfKind (b : Block) (k : Kind) : Prop :=
    (∀ k', b.wait = some k' → k' = k) ∧ (∀ e, b.evt = some e → e.kindOf = k)

/-- What holds all along a run in which the command flow acts through shell calls only (R32, R191, R209). -/
def HostInv (s : State) : Prop :=
  ShellOnly s.env.agenda ∧ SlotExclusive s.block ∧ FlowClear s ∧ FlowKind s

/-- The same output, a notification among them being about the frame `g` (R38). -/
def noteAbout (g : Frame) : Output → Output
  | .note reason _ => .note reason g
  | .returned agent r => .returned agent r
  | .wake => .wake
  | .handed f => .handed f
  | .progress n => .progress n
  | .chunkCounts w f => .chunkCounts w f
  | .finished o => .finished o

/-- Image byte `n`, past the end the fill byte (R214). -/
def imageByte (image : List Byte) (n : Nat) : Byte := image.getD n 0xFF#8

/-- The frame each command of the host sends (R211 to R214, R216, R217); the three payload parameters are D24's (log
entry 25). -/
def commandFrame (p : Config.Params) (t : TargetId) : Job → Frame
  | .ack .erase => outboundFrame t 0x01#5 []
  | .ack (.upload _ _ .erasing) => outboundFrame t 0x01#5 []
  | .ack (.upload _ _ .beginWrite) => outboundFrame t 0x02#5 p.beginPayload
  | .ack (.upload image _ (.writing i)) => outboundFrame t 0x03#5
      [imageByte image (4 * i), imageByte image (4 * i + 1), imageByte image (4 * i + 2), imageByte image (4 * i + 3)]
  | .ack (.upload _ _ .endWrite) => outboundFrame t 0x04#5 p.endPayload
  | .sum _ => outboundFrame t 0x05#5 p.reqPayload

/-- What the host outputs when a command fails: a Write-Data reports its counts (R213), and the call ends (R219; log
entry 35). -/
def failOutputs (cause : FailCause) : Job → List Output
  | .ack (.upload _ _ (.writing i)) => [.chunkCounts i 1, .finished (.failed cause)]
  | .ack .erase => [.finished (.failed cause)]
  | .ack (.upload _ _ .erasing) => [.finished (.failed cause)]
  | .ack (.upload _ _ .beginWrite) => [.finished (.failed cause)]
  | .ack (.upload _ _ .endWrite) => [.finished (.failed cause)]
  | .sum _ => [.finished (.failed cause)]

/-- Where an upload stands after the success of a phase (R210, R213): the chunks in ascending order while image
bytes remain, then End-Write, then the verification. -/
def afterPhase (image : List Byte) (ours : Word32) : Phase → Flow
  | .erasing => .busy (.ack (.upload image ours .beginWrite)) .arm
  | .beginWrite => chunkOrEnd 0
  | .writing i => chunkOrEnd (i + 1)
  | .endWrite => .busy (.sum (.verify ours)) .arm
where
  /-- Chunk `i`, or End-Write when the image has no byte `4i`. -/
  chunkOrEnd (i : Nat) : Flow :=
    if 4 * i < image.length then .busy (.ack (.upload image ours (.writing i))) .arm
    else .busy (.ack (.upload image ours .endWrite)) .arm

/-- The progress reported after a phase (R215): after a chunk, at every 1024 source bytes and at the end (log
entries 21, 22). -/
def progressAfter (image : List Byte) : Phase → List Output
  | .erasing => []
  | .beginWrite => []
  | .writing i =>
    let consumed := min (4 * (i + 1)) image.length
    if consumed % 1024 = 0 ∨ consumed = image.length then [.progress consumed] else []
  | .endWrite => []

/-- The state after an operation of the host's command flow and a move of the host: the flow, and the outputs of
both. -/
def moves (s : State) (flow : Flow) (os : List Output) : State :=
  { s with env := { s.env with flow := flow, trace := s.env.trace ++ os } }

/-- Two frames DISPATCH cannot tell apart: same command field, same payload (R160). -/
def SameToDispatch (f g : Frame) : Prop := commandOf f.addressField = commandOf g.addressField ∧ f.payload = g.payload

end Sys2Proof.Safety
end

