-- ==== Sys2Proof/Certificates/Slice0/Obligations.lean ====
section
/-! DEFINITION. The statements for the provers. Each docstring names the rule of spec/ it formalises. -/

open Sys2Proof Sys2Proof.Machine Sys2Proof.Safety

/-! Encoding -/

/-- 30_encoding.md R81, R85, R96, R97: decoding the bytes of a well-formed operation gives it back, every operand at
every value, for every value of the target bits an outbound frame row carries. The numbers of OPSEL are the spec's
decision D3, the bytes of its operands and the reading of target bits are the model's own (log entries 2, 10). -/
def Obligations.DecodeOfEncodeIsTheOperation : Prop :=
  ∀ (t : TargetId) (i : Instr), i.WellFormed → decode i.format (encodeWith t i) = .ok i

/-- R81, R85, R96, R97 (log entries 2, 10): a request that decodes is the bytes of the operation it decodes to, up
to the target bits of an outbound row, so that no two requests but these stand for one operation. -/
def Obligations.DecodedRequestIsTheEncoding : Prop :=
  ∀ (fmt : Format) (bytes : List Byte) (i : Instr), decode fmt bytes = .ok i →
    i.format = fmt ∧ ∃ t : TargetId, encodeWith t i = bytes

/-- R84, R97: only operations whose operands fit come out of the decoder. -/
def Obligations.DecodedOperationsAreWellFormed : Prop :=
  ∀ (fmt : Format) (bytes : List Byte) (i : Instr), decode fmt bytes = .ok i → i.WellFormed

/-- R96, the spec's decision D3 (log entry 2): the OPSEL number of a request is its first byte; codes 0xC to 0xF are
refused whatever follows. -/
def Obligations.OpselNumbersTheOperations : Prop :=
  (∀ (code : Byte) (operands : List Byte) (i : Instr), decode .opsel (code :: operands) = .ok i →
    opselOf i = some code.toNat) ∧
  (∀ (code : Byte) (operands : List Byte), 0xC ≤ code.toNat → code.toNat ≤ 0xF →
    decode .opsel (code :: operands) = .error (.reservedOpsel code.toNat))

/-- R81, R85: the seven rows of the frame table, for every target bit they leave free. An outbound row's target bits
are no operand (log entry 10). -/
def Obligations.FrameWordsOfTheTable : Prop :=
  (∀ t : TargetId,
    decodeTableWord 16 (0#1 ++ t ++ 0x01#5).toNat = some .frameErase ∧
    decodeTableWord 16 (0#1 ++ t ++ 0x02#5).toNat = some .frameBeginWrite ∧
    decodeTableWord 16 (0#1 ++ t ++ 0x03#5).toNat = some (.frameWriteData 0 0 0 0) ∧
    decodeTableWord 16 (0#1 ++ t ++ 0x04#5).toNat = some .frameEndWrite ∧
    decodeTableWord 16 (0#1 ++ t ++ 0x05#5).toNat = some .frameRequestChecksum) ∧
  (∀ t : TargetField,
    decodeTableWord 16 (t ++ 0x11#5).toNat = some (.frameAcknowledgement t []) ∧
    decodeTableWord 16 (t ++ 0x12#5).toNat = some (.frameChecksumReport t []))

/-- R81, R85, R96: a few requests written out by hand. The addresses and the OPSEL numbers are the spec's; the kind
byte, the operand bytes, the low address byte first and the length byte are the model's layout (log entry 2; N4
gives kinds no number). -/
def Obligations.WrittenWordsDecode : Prop :=
  decode .opsel [0x00#8] = .ok .crcInit ∧
  decode .opsel [0x01#8, 0x31#8] = .ok (.crcUpdate 0x31#8) ∧
  decode .opsel [0x07#8, 0x00#8] = .ok (.armWait .confirmation) ∧
  decode .opsel [0x0A#8, 0x1F#8] = .ok (.setTarget 0x1F#5) ∧
  decode .canid11 [0x61#8, 0x00#8] = .ok .frameErase ∧
  decode .canid11 [0x63#8, 0x00#8, 0xDE#8, 0xAD#8, 0xBE#8, 0xEF#8] = .ok (.frameWriteData 0xDE#8 0xAD#8 0xBE#8 0xEF#8) ∧
  decode .canid11 [0xF1#8, 0x07#8, 0x01#8, 0xFF#8] = .ok (.frameAcknowledgement 0x3F#6 [0xFF#8])

/-! The step -/

/-- R24, R61, R63, and the model's agenda (log entries 1, 18): when the next entry of the agenda is a request that
decodes to an operation its agent may invoke, the step is exec of that operation, the entry removed and the turn its
agent's, whatever the host is about. -/
def Obligations.StepRunsTheDecodedOperation : Prop :=
  ∀ (s : State) (a : Agent) (fmt : Format) (bytes : List Byte) (rest : List Invocation) (i : Instr),
    s.env.agenda = .operation a fmt bytes :: rest → decode fmt bytes = .ok i →
    (homeAgent i = a ∨ ∃ f, i = .decode f) →
    step s = exec i { s with env := { s.env with agenda := rest, turn := a } }

/-- R84, R101, R201, R202 (log entries 13, 14): an arriving frame of the Frame type is dispatched once reception is
started, one outside the type is refused, and before reception is started nothing reaches DISPATCH. -/
def Obligations.StepDispatchesArrivals : Prop :=
  ∀ (s : State) (f : BusFrame) (rest : List Invocation), s.env.agenda = .arrival f :: rest →
    (ReceiverStarted s → f.extended = false → f.remoteRequest = false → f.identifier < 2048 → f.data.length ≤ 8 →
      step s = exec (.dispatch ⟨BitVec.ofNat 11 f.identifier, f.data⟩)
        { s with env := { s.env with agenda := rest, turn := .receive } }) ∧
    (ReceiverStarted s → (f.extended = true ∨ f.remoteRequest = true ∨ 2048 ≤ f.identifier ∨ 8 < f.data.length) →
      step s = .refused .outsideFrameType) ∧
    (¬ ReceiverStarted s → step s = .next { s with env := { s.env with agenda := rest, turn := .receive } })

/-- R62, R246 (D29), the model's refusal (log entry 15): DISPATCH and the inbound rows are the receive flow's, every
other operation the command flow's; an operation of the other agent is refused, and DECODE alone is open to both. -/
def Obligations.AgentsKeepToTheirOperations : Prop :=
  ∀ (s : State) (a : Agent) (fmt : Format) (bytes : List Byte) (rest : List Invocation) (i : Instr),
    s.env.agenda = .operation a fmt bytes :: rest → decode fmt bytes = .ok i →
    (homeAgent i = .receive ↔ ReceiveOperation i) ∧
    (step s = .refused .wrongAgent ↔
      (∀ f, i ≠ .decode f) ∧ ((a = .receive ∧ ¬ ReceiveOperation i) ∨ (a = .command ∧ ReceiveOperation i)))

/-- Log entries 1 and 33: a table word that decodes, placed by withFetchWord, is what the very next step runs. -/
def Obligations.PlacedTableWordRunsNext : Prop :=
  ∀ (s : State) (nbits w : Nat) (i : Instr), decodeTableWord nbits w = some i →
    step (s.withFetchWord nbits w) = exec i { s with env := { s.env with turn := homeAgent i } }

/-! Reset -/

/-- 70_reset_and_hazards.md R261 (the spec's decisions D10, D18): every element at its reset value, for every value
of the parameters; with the spec's defaults CRC and TARGET are unwritten and their users fault; nothing is emitted. -/
def Obligations.ResetLeavesTheSpecValues : Prop :=
  (∀ p : Config.Params,
    (State.resetWith p).block = ⟨p.crcReset, p.targetReset, false, none, none⟩ ∧ (State.resetWith p).env.trace = []) ∧
  State.reset.block = ⟨none, none, false, none, none⟩ ∧
  (∀ b, exec (.crcUpdate b) State.reset = .fault .crcUninitialised) ∧
  exec .crcRead State.reset = .fault .crcUninitialised ∧
  exec .frameErase State.reset = .fault .targetUnset

/-! The CRC engine -/

/-- 40_crc_engine.md R112: CRC_INIT, in every state, writes 0xFFFFFFFF to CRC and nothing else. -/
def Obligations.CrcInitWritesTheInitialRegister : Prop :=
  ∀ s : State, exec .crcInit s = .next (withBlock s { s.block with crc := some 0xFFFFFFFF#32 })

/-- R113: CRC_UPDATE steps a written CRC and changes nothing else. (An unwritten one: UseOfUnwrittenCrcFaults.) -/
def Obligations.CrcUpdateStepsTheRegister : Prop :=
  ∀ (s : State) (r : Word32) (b : Byte), s.block.crc = some r →
    exec (.crcUpdate b) s = .next (withBlock s { s.block with crc := some (crcStep r b) })

/-- R113, R114, the spec's decision D10: CRC_UPDATE and CRC_READ on an unwritten CRC are the fault CrcUninitialised. -/
def Obligations.UseOfUnwrittenCrcFaults : Prop :=
  ∀ (s : State) (b : Byte), s.block.crc = none →
    exec (.crcUpdate b) s = .fault .crcUninitialised ∧ exec .crcRead s = .fault .crcUninitialised

/-- R114, with the spec's decision D9: CRC_READ returns the complement of CRC and changes no element. -/
def Obligations.CrcReadReturnsTheComplement : Prop :=
  ∀ (s : State) (r : Word32), s.block.crc = some r → exec .crcRead s = .next (returns s (.word (~~~r)))

/-- R116, the loop the spec takes from general knowledge (G1; log entry 24): the byte enters at bits [7:0], then
eight shifts towards bit 0, each with the polynomial if bit 0 was 1. -/
def Obligations.CrcStepIsTheReflectedLoop : Prop :=
  ∀ (r : Word32) (b : Byte),
    let shift : Word32 → Word32 := fun x => if x.getLsbD 0 = true then (x >>> 1) ^^^ 0xEDB88320#32 else x >>> 1
    crcStep r b = shift (shift (shift (shift (shift (shift (shift (shift (r ^^^ b.setWidth 32))))))))

/-- R115: CHECKSUM returns the checksum and leaves CRC at its complement, in every state; the value depends on the
bytes alone (R119 b). -/
def Obligations.ChecksumReturnsAndLeavesTheRegister : Prop :=
  ∀ (s : State) (bytes : List Byte),
    exec (.checksum bytes) s =
      .next (returns (withBlock s { s.block with crc := some (~~~ checksumOf bytes) }) (.word (checksumOf bytes)))

/-- R115: CHECKSUM is CRC_INIT, CRC_UPDATE of every byte in order, CRC_READ. -/
def Obligations.ChecksumIsItsPrimitives : Prop :=
  ∀ (s : State) (bytes : List Byte),
    execAll (.crcInit :: (bytes.map .crcUpdate ++ [.crcRead])) s = exec (.checksum bytes) s

/-- R114, R120: after CHECKSUM of x, CRC_UPDATE over y and CRC_READ return the checksum of x ++ y: the register is
the whole state of the engine. -/
def Obligations.UpdatesAfterAChecksumContinueIt : Prop :=
  ∀ (s : State) (x y : List Byte),
    execAll (.checksum x :: (y.map .crcUpdate ++ [.crcRead])) s =
      .next (returns (returns (withBlock s { s.block with crc := some (~~~ checksumOf (x ++ y)) })
        (.word (checksumOf x))) (.word (checksumOf (x ++ y))))

/-- R119: the checksum of the empty sequence is 0, and sequences of one length that differ in exactly one byte (one
bit of it among others) have different checksums. -/
def Obligations.AChangedByteChangesTheChecksum : Prop :=
  checksumOf [] = 0#32 ∧
  ∀ (before after : List Byte) (b d : Byte), b ≠ d →
    checksumOf (before ++ b :: after) ≠ checksumOf (before ++ d :: after)

/-- R117: the table form of the step, with the table entries R117 gives. -/
def Obligations.TableFormOfTheCrcStep : Prop :=
  (∀ i : Byte, crcTable i = crcStep (i.setWidth 32) 0x00#8) ∧
  (∀ (r : Word32) (b : Byte), crcStep r b = (r >>> 8) ^^^ crcTable ((r ^^^ b.setWidth 32).setWidth 8)) ∧
  crcTable 0#8 = 0x00000000#32 ∧ crcTable 1#8 = 0x77073096#32 ∧
  crcTable 128#8 = 0xEDB88320#32 ∧ crcTable 255#8 = 0x2D02EF8D#32

/-- R124: appending the checksum least significant byte first leaves the register at 0xDEBB20E3 whatever the
message. -/
def Obligations.AppendedChecksumLeavesTheResidue : Prop :=
  ∀ m : List Byte,
    crcRun 0xFFFFFFFF#32 (m ++ leastFirst (checksumOf m)) = 0xDEBB20E3#32 ∧
    checksumOf (m ++ leastFirst (checksumOf m)) = 0x2144DF1C#32

/-! The codec -/

/-- 41_frame_codec.md R131, R133, R134, R141, under the spec's default WIDE_CMD_RESULT (R132): the three cases of
ENCODE, each with no element written. Operand widths, the length failure, the order of the checks and shift-OR are
the spec's decisions D5, D6, D8 (log entries 8, 26). -/
def Obligations.EncodeByItsPseudocode : Prop :=
  ∀ (s : State) (target : TargetId) (command : Byte) (len : LenOperand) (payload : List Byte),
    s.cfg.wideCmd = .shiftOr →
    exec (.encode target command len payload) s = .next (returns s
      (if 0x7F < command.toNat then .invalidCommand command
       else if 8 < len.toNat then .invalidLength len
       else .frame ⟨BitVec.ofNat 11 ((target.toNat <<< 5) ||| command.toNat), payload.take len.toNat⟩))

/-- R88, R131, R133, R134, R141 for every setting of WIDE_CMD_RESULT: a command that fits its field gives the
address of the layout; the failures do not depend on the setting. -/
def Obligations.EncodeOfFieldCommandsUnderEverySetting : Prop :=
  ∀ (s : State) (target : TargetId) (command : Byte) (len : LenOperand) (payload : List Byte),
    (command.toNat ≤ 0x1F → len.toNat ≤ 8 →
      exec (.encode target command len payload) s =
        .next (returns s (.frame (outboundFrame target (command.setWidth 5) (payload.take len.toNat))))) ∧
    (0x7F < command.toNat → exec (.encode target command len payload) s = .next (returns s (.invalidCommand command))) ∧
    (command.toNat ≤ 0x7F → 8 < len.toNat →
      exec (.encode target command len payload) s = .next (returns s (.invalidLength len)))

/-- R133: ENCODE reports InvalidCommand exactly when the command is above 0x7F, and then nothing but that result
comes of it: no frame, no element written. -/
def Obligations.InvalidCommandExactlyAbove7F : Prop :=
  ∀ (s : State) (target : TargetId) (command : Byte) (len : LenOperand) (payload : List Byte),
    (0x7F < command.toNat →
      exec (.encode target command len payload) s = .next (returns s (.invalidCommand command))) ∧
    (command.toNat ≤ 0x7F → ∀ (t : State) (c : Byte), exec (.encode target command len payload) s = .next t →
      t.env.trace ≠ s.env.trace ++ [.returned s.env.turn (.invalidCommand c)])

/-- R88: assembly on ENCODE for a command that fits its field, in every state; disassembly on DECODE for every
address. -/
def Obligations.AddressAssemblyAndDisassembly : Prop :=
  (∀ (s : State) (target : TargetId) (command : Byte) (payload : List Byte),
    command.toNat ≤ 0x1F → payload.length ≤ 8 → ∃ f : Frame,
      exec (.encode target command (BitVec.ofNat 4 payload.length) payload) s = .next (returns s (.frame f)) ∧
      f.addressField = 0#1 ++ target ++ (command.setWidth 5 : CommandField) ∧
      f.addressField.toNat = (target.toNat <<< 5) ||| command.toNat ∧ f.addressField.toNat ≤ 0x3FF) ∧
  (∀ (s : State) (f : Frame), exec (.decode f) s = .next (returns s
    (.fields (f.addressField.extractLsb' 5 6) (f.addressField.extractLsb' 0 5) f.payload)))

/-- R132, the spec's decision D6: under shift-OR a command from 0x20 to 0x7F gives a frame that decodes to another
pair: command & 0x1F and target | (command >> 5). -/
def Obligations.WideCommandsDecodeToAnotherPair : Prop :=
  ∀ (s : State) (target : TargetId) (command : Byte) (len : LenOperand) (payload : List Byte),
    s.cfg.wideCmd = .shiftOr → 0x20 ≤ command.toNat → command.toNat ≤ 0x7F → len.toNat ≤ 8 →
    ∃ f : Frame, f.addressField.toNat ≤ 0x3FF ∧
      exec (.encode target command len payload) s = .next (returns s (.frame f)) ∧
      exec (.decode f) s = .next (returns s (.fields
        (BitVec.ofNat 6 (target.toNat ||| (command.toNat >>> 5))) (BitVec.ofNat 5 (command.toNat &&& 0x1F))
        (payload.take len.toNat)))

/-- 93_implementation_defined.md U3 (log entries 8, 9): under `any value` ENCODE of such a command succeeds, address
bits [10:7] and [4:0] are those of shift-OR, the payload is kept, and one draw is used, whatever the free value;
under `refuse` it is refused. -/
def Obligations.WideCommandsUnderTheOtherSettings : Prop :=
  ∀ (s : State) (target : TargetId) (command : Byte) (len : LenOperand) (payload : List Byte),
    0x20 ≤ command.toNat → command.toNat ≤ 0x7F → len.toNat ≤ 8 →
    (s.cfg.wideCmd = .anyValue → ∃ f : Frame,
      exec (.encode target command len payload) s = .next { (returns s (.frame f)) with draws := s.draws + 1 } ∧
      f.payload = payload.take len.toNat ∧
      f.addressField.extractLsb' 0 5 = command.extractLsb' 0 5 ∧
      f.addressField.extractLsb' 7 4 = (0#1 ++ target).extractLsb' 2 4) ∧
    (s.cfg.wideCmd = .refuse → exec (.encode target command len payload) s = .refused .wideCommand)

/-- R88, R135, R136: DECODE is total and splits the address at bit 5; the payload is returned as it is. -/
def Obligations.DecodeSplitsTheAddress : Prop :=
  ∀ (s : State) (f : Frame),
    exec (.decode f) s = .next (returns s (.fields
      (BitVec.ofNat 6 (f.addressField.toNat / 32)) (BitVec.ofNat 5 (f.addressField.toNat % 32)) f.payload))

/-- R137: decode after encode, for every target, every command up to 0x1F, every payload of at most 8 bytes, in any
two states. -/
def Obligations.DecodeAfterEncodeReturnsTheOperands : Prop :=
  ∀ (s u : State) (target : TargetId) (command : Byte) (payload : List Byte),
    command.toNat ≤ 0x1F → payload.length ≤ 8 →
    ∃ f : Frame,
      exec (.encode target command (BitVec.ofNat 4 payload.length) payload) s = .next (returns s (.frame f)) ∧
      exec (.decode f) u = .next (returns u (.fields (target.setWidth 6) (command.setWidth 5) payload))

/-- R142: encode after decode is the identity on the frames whose address has bit 10 clear. -/
def Obligations.EncodeAfterDecodeReturnsTheFrame : Prop :=
  ∀ (s u : State) (f : Frame), f.wf = true → f.addressField.getLsbD 10 = false →
    ∃ (target : TargetField) (command : CommandField) (payload : List Byte),
      exec (.decode f) s = .next (returns s (.fields target command payload)) ∧
      exec (.encode (target.setWidth 5) (command.setWidth 8) (BitVec.ofNat 4 payload.length) payload) u =
        .next (returns u (.frame f))

/-- R94, R84: every frame ENCODE returns, under every setting, has at most 8 payload bytes and an address of at most
0x3FF. -/
def Obligations.EncodedFramesHaveBit10Clear : Prop :=
  ∀ (s t : State) (target : TargetId) (command : Byte) (len : LenOperand) (payload : List Byte) (f : Frame),
    exec (.encode target command len payload) s = .next t →
    t.env.trace = s.env.trace ++ [.returned s.env.turn (.frame f)] →
    f.wf = true ∧ f.addressField.toNat ≤ 0x3FF

/-- R140: ENCODE and DECODE read and write no element of the block and emit nothing but their result. Under the
spec's default WIDE_CMD_RESULT the result depends on the operands alone; under the other settings (U3, log entries
8, 9) on the setting and the draw as well, and on nothing else. -/
def Obligations.CodecReadsAndWritesNoElement : Prop :=
  ∀ (s u : State) (i : Instr),
    ((∃ target command len payload, i = .encode target command len payload) ∨ ∃ f, i = .decode f) →
    (s.cfg.wideCmd = .shiftOr → u.cfg.wideCmd = .shiftOr →
      ∃ r, exec i s = .next (returns s r) ∧ exec i u = .next (returns u r)) ∧
    (u.cfg = s.cfg → u.draws = s.draws →
      (∃ r n, exec i s = .next { (returns s r) with draws := n } ∧ exec i u = .next { (returns u r) with draws := n }) ∨
      (exec i s = .refused .wideCommand ∧ exec i u = .refused .wideCommand))

/-! The dispatcher -/

/-- R54, R152, R153, R156: a classifiable frame whose event has the armed kind is delivered, WAIT cleared and one
WAKE emitted in the one step, whatever the status; nothing else changes. -/
def Obligations.AMatchingFrameSatisfiesTheWait : Prop :=
  ∀ (s : State) (f : Frame),
    (∀ p0 rest, f.addressField.setWidth 5 = 0x11#5 → f.payload = p0 :: rest → s.block.wait = some .confirmation →
      exec (.dispatch f) s = .next (wakes (withBlock s
        { s.block with wait := none, evt := some (.acknowledgement (p0 == 0xFF#8) p0) }) [.wake])) ∧
    (∀ p0 p1 p2 p3 rest, f.addressField.setWidth 5 = 0x12#5 → f.payload = p0 :: p1 :: p2 :: p3 :: rest →
      s.block.wait = some .checksum → ∃ v : Word32,
        v.toNat = p0.toNat * 2 ^ 24 + p1.toNat * 2 ^ 16 + p2.toNat * 2 ^ 8 + p3.toNat ∧
        exec (.dispatch f) s =
          .next (wakes (withBlock s { s.block with wait := none, evt := some (.checksumReport v) }) [.wake]))

/-- 42_dispatcher.md R151 to R158, R162, R166: every row of the outcome table, with everything DISPATCH leaves
unchanged. The rows without a wait, of the other kind and the reasons' names are the spec's decisions D11, D12, D16
(log entry 27). -/
def Obligations.DispatchOutcomeTable : Prop :=
  ∀ (s : State) (f : Frame),
    (∀ p0 rest, f.addressField.setWidth 5 = 0x11#5 → f.payload = p0 :: rest →
      (s.block.wait = some .confirmation → exec (.dispatch f) s = .next (wakes (withBlock s
        { s.block with wait := none, evt := some (.acknowledgement (p0 == 0xFF#8) p0) }) [.wake])) ∧
      (s.block.wait = some .checksum → exec (.dispatch f) s = .next (wakes s [.wake, .note .kindMismatch f])) ∧
      (s.block.wait = none → exec (.dispatch f) s = .next (outputs s [.note .noWaiter f]))) ∧
    (f.addressField.setWidth 5 = 0x11#5 → f.payload = [] →
      exec (.dispatch f) s = .next (outputs s [.note .shortPayload f])) ∧
    (∀ p0 p1 p2 p3 rest, f.addressField.setWidth 5 = 0x12#5 → f.payload = p0 :: p1 :: p2 :: p3 :: rest →
      (s.block.wait = some .checksum → exec (.dispatch f) s = .next (wakes (withBlock s
        { s.block with wait := none, evt := some (.checksumReport (p0 ++ p1 ++ p2 ++ p3)) }) [.wake])) ∧
      (s.block.wait = some .confirmation → exec (.dispatch f) s = .next (wakes s [.wake, .note .kindMismatch f])) ∧
      (s.block.wait = none → exec (.dispatch f) s = .next (outputs s [.note .noWaiter f]))) ∧
    (f.addressField.setWidth 5 = 0x12#5 → f.payload.length < 4 →
      exec (.dispatch f) s = .next (outputs s [.note .shortPayload f])) ∧
    (f.addressField.setWidth 5 ≠ 0x11#5 → f.addressField.setWidth 5 ≠ 0x12#5 →
      exec (.dispatch f) s = .next (outputs s [.note .unrecognisedCommand f]))

/-- R151, R159: DISPATCH has a next state whatever the frame and whatever the state. -/
def Obligations.DispatchAlwaysHasAStep : Prop :=
  ∀ (s : State) (f : Frame), ∃ t, exec (.dispatch f) s = .next t

/-- R160, the spec's decision D17 (log entry 27): two frames with one command field and one payload, their target
bits as they may, leave the same block and flow and give the same outputs, WAKE and the NOTE's reason among them,
each NOTE about its own frame; and no value of TARGET or VERBOSE changes what DISPATCH does. -/
def Obligations.DispatchIgnoresTheTarget : Prop :=
  ∀ (s : State) (f g : Frame),
    (SameToDispatch f g → ∀ t u, exec (.dispatch f) s = .next t → exec (.dispatch g) s = .next u →
      t.block = u.block ∧ t.env.flow = u.env.flow ∧
      ∃ os, t.env.trace = s.env.trace ++ os ∧ u.env.trace = s.env.trace ++ os.map (noteAbout g)) ∧
    (∀ target verbose, exec (.dispatch f) (withBlock s { s.block with target := target, verbose := verbose }) =
      mapNext (fun t => withBlock t { t.block with target := target, verbose := verbose }) (exec (.dispatch f) s))

/-- R153, R154, R157, R158 (decisions D11, D12), as the table row FRAME_ACKNOWLEDGEMENT: a frame with command 0x11,
whatever its target bits. -/
def Obligations.AcknowledgementFrames : Prop :=
  ∀ (s : State) (x : TargetField) (status : Byte) (rest : List Byte),
    (s.block.wait = some .confirmation → exec (.frameAcknowledgement x (status :: rest)) s =
      .next (wakes (withBlock s
        { s.block with wait := none, evt := some (.acknowledgement (status == 0xFF#8) status) }) [.wake])) ∧
    (s.block.wait = some .checksum → exec (.frameAcknowledgement x (status :: rest)) s =
      .next (wakes s [.wake, .note .kindMismatch (inboundFrame x 0x11#5 (status :: rest))])) ∧
    (s.block.wait = none → exec (.frameAcknowledgement x (status :: rest)) s =
      .next (outputs s [.note .noWaiter (inboundFrame x 0x11#5 (status :: rest))])) ∧
    exec (.frameAcknowledgement x []) s = .next (outputs s [.note .shortPayload (inboundFrame x 0x11#5 [])])

/-- R54, R152, R154, R157, R158 (decisions D11, D12), as the table row FRAME_CHECKSUM_REPORT: a frame with command
0x12, whatever its target bits; the value is big-endian, p0 its most significant byte. -/
def Obligations.ChecksumReportFrames : Prop :=
  ∀ (s : State) (x : TargetField) (p0 p1 p2 p3 : Byte) (rest short : List Byte),
    (s.block.wait = some .checksum → ∃ v : Word32,
      v.toNat = p0.toNat * 2 ^ 24 + p1.toNat * 2 ^ 16 + p2.toNat * 2 ^ 8 + p3.toNat ∧
      exec (.frameChecksumReport x (p0 :: p1 :: p2 :: p3 :: rest)) s =
        .next (wakes (withBlock s { s.block with wait := none, evt := some (.checksumReport v) }) [.wake])) ∧
    (s.block.wait = some .confirmation → exec (.frameChecksumReport x (p0 :: p1 :: p2 :: p3 :: rest)) s =
      .next (wakes s [.wake, .note .kindMismatch (inboundFrame x 0x12#5 (p0 :: p1 :: p2 :: p3 :: rest))])) ∧
    (s.block.wait = none → exec (.frameChecksumReport x (p0 :: p1 :: p2 :: p3 :: rest)) s =
      .next (outputs s [.note .noWaiter (inboundFrame x 0x12#5 (p0 :: p1 :: p2 :: p3 :: rest))])) ∧
    (short.length < 4 → exec (.frameChecksumReport x short) s =
      .next (outputs s [.note .shortPayload (inboundFrame x 0x12#5 short)]))

/-! The wait slot and the configuration -/

/-- 43_wait_and_config.md R181 (with the spec's decision D13): ARM_WAIT with no wait armed arms the kind and empties
EVT, and changes nothing else. -/
def Obligations.ArmWaitArmsAndEmptiesTheSlot : Prop :=
  ∀ (s : State) (k : Kind), s.block.wait = none →
    exec (.armWait k) s = .next (withBlock s { s.block with wait := some k, evt := none })

/-- R31, R182 (the spec's decision D14): ARM_WAIT on an armed slot is the fault DoubleArm, whatever the two kinds. -/
def Obligations.SecondArmFaults : Prop :=
  ∀ (s : State) (k k' : Kind), s.block.wait = some k → exec (.armWait k') s = .fault .doubleArm

/-- R183 (the spec's decision D15): CANCEL_WAIT clears WAIT, keeps EVT, returns whether a wait was armed, in every
state. -/
def Obligations.CancelWaitReleasesTheWait : Prop :=
  ∀ s : State, exec .cancelWait s =
    .next (returns (withBlock s { s.block with wait := none }) (.wasArmed (decide (s.block.wait ≠ none))))

/-- R185: TAKE_EVENT, in every state, returns what EVT holds and discards it, so that a second one returns none. -/
def Obligations.TakeEventConsumesOnce : Prop :=
  ∀ s : State,
    exec .takeEvent s = .next (returns (withBlock s { s.block with evt := none }) (.event s.block.evt)) ∧
    execAll [.takeEvent, .takeEvent] s = .next
      (returns (returns (withBlock s { s.block with evt := none }) (.event s.block.evt)) (.event none))

/-- R184 (the spec's decisions D15, D25): with a wait armed and nothing pending, a delivery that comes before
CANCEL_WAIT makes it return false and leaves the event to take; a CANCEL_WAIT that comes first returns true, and the
frame then finds no wait. -/
def Obligations.DeadlineAgainstDelivery : Prop :=
  ∀ (s : State) (f : Frame) (e : Event),
    classify (commandOf f.addressField) f.payload = .classified e → s.block.wait = some e.kindOf → s.block.evt = none →
    execAll [.dispatch f, .cancelWait, .takeEvent] s = .next
      (wakes (withBlock s { s.block with wait := none })
        [.wake, .returned s.env.turn (.wasArmed false), .returned s.env.turn (.event (some e))]) ∧
    execAll [.cancelWait, .dispatch f, .takeEvent] s = .next
      (outputs (withBlock s { s.block with wait := none })
        [.returned s.env.turn (.wasArmed true), .note .noWaiter f, .returned s.env.turn (.event none)])

/-- R187: SET_TARGET writes TARGET in every state, a wait armed or not, and nothing else, and each of the five
outbound rows run next hands over a frame that carries it. That a row is the SEND, what the transport answers and
the three payload parameters are the model's and D24's (log entries 10, 11, 12, 25). -/
def Obligations.SetTargetWritesTarget : Prop :=
  ∀ (s : State) (id : TargetId),
    let t := withBlock s { s.block with target := some id }
    exec (.setTarget id) s = .next t ∧
    (s.cfg.wf = true →
      execAll [.setTarget id, .frameErase] s = .next (sends t (outboundFrame id 0x01#5 [])) ∧
      execAll [.setTarget id, .frameBeginWrite] s = .next (sends t (outboundFrame id 0x02#5 s.cfg.beginPayload)) ∧
      (∀ b0 b1 b2 b3, execAll [.setTarget id, .frameWriteData b0 b1 b2 b3] s =
        .next (sends t (outboundFrame id 0x03#5 [b0, b1, b2, b3]))) ∧
      execAll [.setTarget id, .frameEndWrite] s = .next (sends t (outboundFrame id 0x04#5 s.cfg.endPayload)) ∧
      execAll [.setTarget id, .frameRequestChecksum] s =
        .next (sends t (outboundFrame id 0x05#5 s.cfg.reqPayload)))

/-- R189: SET_VERBOSE writes VERBOSE and nothing else. -/
def Obligations.SetVerboseWritesVerbose : Prop :=
  ∀ (s : State) (flag : Bool), exec (.setVerbose flag) s = .next (withBlock s { s.block with verbose := flag })

/-- R192: every operation but the dispatching ones, ARM_WAIT, CANCEL_WAIT and TAKE_EVENT leaves the slot where it
is, and no operation at all ever leaves it both armed and pending when it was not. -/
def Obligations.TheSlotHasThreeStates : Prop :=
  ∀ (i : Instr) (s t : State), exec i s = .next t →
    (¬ TouchesSlot i → t.block.wait = s.block.wait ∧ t.block.evt = s.block.evt) ∧
    (SlotExclusive s.block →
      (t.block.wait = none ∧ t.block.evt = none) ∨ (∃ k, t.block.wait = some k ∧ t.block.evt = none) ∨
      (∃ e, t.block.wait = none ∧ t.block.evt = some e))

/-! Outbound frames -/

/-- 45_host_boundary.md R205, with R85, R87, R211 to R213, R216, R217 and R200: with TARGET written, each
client-to-device command hands the transport the frame of the layout, its target reg.TARGET, and returns the
transport's answer; nothing of the block changes. The payloads of Begin-Write, End-Write and Request-Checksum are
the parameters' (D24, log entry 25); that a row is the SEND and what the transport answers are the model's (log
entries 10, 11, 12). -/
def Obligations.OutboundFramesCarryTheTarget : Prop :=
  ∀ (s : State) (t : TargetId), s.block.target = some t → s.cfg.wf = true →
    exec .frameErase s = .next (sends s (outboundFrame t 0x01#5 [])) ∧
    exec .frameBeginWrite s = .next (sends s (outboundFrame t 0x02#5 s.cfg.beginPayload)) ∧
    (∀ b0 b1 b2 b3, exec (.frameWriteData b0 b1 b2 b3) s = .next (sends s (outboundFrame t 0x03#5 [b0, b1, b2, b3]))) ∧
    exec .frameEndWrite s = .next (sends s (outboundFrame t 0x04#5 s.cfg.endPayload)) ∧
    exec .frameRequestChecksum s = .next (sends s (outboundFrame t 0x05#5 s.cfg.reqPayload))

/-- R26, R205 (the spec's decision D18): with TARGET unwritten, building any outbound frame is the fault
TargetUnset. -/
def Obligations.OutboundWithoutTargetFaults : Prop :=
  ∀ s : State, s.block.target = none →
    exec .frameErase s = .fault .targetUnset ∧ exec .frameBeginWrite s = .fault .targetUnset ∧
    (∀ b0 b1 b2 b3, exec (.frameWriteData b0 b1 b2 b3) s = .fault .targetUnset) ∧
    exec .frameEndWrite s = .fault .targetUnset ∧ exec .frameRequestChecksum s = .fault .targetUnset

/-! Invariants and whole-machine rules -/

/-- 10_state.md R32: from every state, reachable or not, in which WAIT and EVT are not both present, no step,
whatever the agents and the host do, leads to one in which they are. -/
def Obligations.StepKeepsTheSlotExclusive : Prop :=
  ∀ s t : State, SlotExclusive s.block → step s = .next t → SlotExclusive t.block

/-- R33: every step keeps a pending acknowledgement's success bit true to its status. -/
def Obligations.StepKeepsAcknowledgementsConsistent : Prop :=
  ∀ s t : State, AckConsistent s.block → step s = .next t → AckConsistent t.block

/-- R32, R33, R261: both invariants hold at reset, for every value of the parameters. -/
def Obligations.SlotRulesHoldAtReset : Prop :=
  ∀ p : Config.Params, SlotExclusive (State.resetWith p).block ∧ AckConsistent (State.resetWith p).block

/-- R30, R62: a step of the receive flow writes neither CRC nor TARGET nor VERBOSE, and touches the slot only by a
matching delivery; it never faults. -/
def Obligations.ReceiveFlowOnlyDelivers : Prop :=
  ∀ (s : State) (inv : Invocation) (rest : List Invocation), s.env.agenda = inv :: rest → inv.agent = .receive →
    (∀ r, step s ≠ .fault r) ∧
    ∀ t, step s = .next t →
      t.block = s.block ∨
      ∃ e, s.block.wait = some e.kindOf ∧ t.block = { s.block with wait := none, evt := some e }

/-- The model's own, log entries 7 and 16: no step writes a parameter, and outputs are only ever appended. -/
def Obligations.StepKeepsParametersAndAppendsOutputs : Prop :=
  ∀ s t : State, step s = .next t → t.cfg = s.cfg ∧ ∃ os, t.env.trace = s.env.trace ++ os

/-- R27, R190: VERBOSE changes no result, no other element, no output, no fault: from states that differ in VERBOSE
alone a step has outcomes that differ in VERBOSE alone. -/
def Obligations.VerboseChangesNoOutcome : Prop :=
  ∀ (s : State) (v : Bool), ∃ v', step (withVerbose s v) = mapNext (fun t => withVerbose t v') (step s)

/-! The host over the block -/

/-- R184, R206, R208, R209 and the send-and-wait half of R211 to R217, on the model's stages (log entries 17, 18,
19, 32, 35), for every command of the host: it arms its kind; it sends its frame and sleeps, or turns to cancelling
where the transport refuses; asleep it polls nothing; woken, or late after a deadline that a delivery beat, it takes
the event; woken with no event of its kind it sleeps on, late with none it fails as a timeout; the deadline on an
armed wait cancels it and is a timeout, on a satisfied one it leaves the answer to take. What the answer of an
upload does: UploadFollowsItsSequence. -/
def Obligations.AwaitEndsWithItsAnswerOrItsDeadline : Prop :=
  ∀ (s : State) (j : Job),
    (∀ rest, s.env.agenda = .host .resume :: rest → s.env.flow ≠ .idle →
      step s = resumeFlow { s with env := { s.env with agenda := rest, turn := .command } }) ∧
    (∀ rest, s.env.agenda = .host .deadline :: rest →
      step s = deadlineFlow { s with env := { s.env with agenda := rest, turn := .command } }) ∧
    (s.env.flow = .busy j .arm →
      (s.block.wait = none → ∃ k, ((∃ a, j = .ack a) → k = .confirmation) ∧ ((∃ b, j = .sum b) → k = .checksum) ∧
        resumeFlow s = .next (moves (withBlock s { s.block with wait := some k, evt := none }) (.busy j .send) [])) ∧
      (s.block.wait ≠ none → resumeFlow s = .fault .doubleArm)) ∧
    (s.env.flow = .busy j .send →
      (∀ t, s.block.target = some t → s.cfg.wf = true →
        resumeFlow s = .next (moves (sends s (commandFrame s.cfg t j))
          (.busy j (if s.env.sendAnswers.headD true = true then .asleep else .cancelling)) [])) ∧
      (s.block.target = none → resumeFlow s = .fault .targetUnset)) ∧
    (s.env.flow = .busy j .asleep → resumeFlow s = .next s) ∧
    (s.env.flow = .busy j .woken ∨ s.env.flow = .busy j .late →
      (∀ ok status, j = .ack .erase → s.block.evt = some (.acknowledgement ok status) →
        resumeFlow s = .next (moves (withBlock s { s.block with evt := none }) .idle
          [.returned s.env.turn (.event s.block.evt),
            .finished (if ok = true then .erased else .failed .deviceRejected)])) ∧
      (∀ v, j = .sum .query → s.block.evt = some (.checksumReport v) →
        resumeFlow s = .next (moves (withBlock s { s.block with evt := none }) .idle
          [.returned s.env.turn (.event s.block.evt), .finished (.reported v)]))) ∧
    ((∀ e, s.block.evt = some e → e.kindOf ≠ j.kind) →
      (s.env.flow = .busy j .woken →
        resumeFlow s = .next (moves (withBlock s { s.block with evt := none }) (.busy j .asleep)
          [.returned s.env.turn (.event s.block.evt)])) ∧
      (s.env.flow = .busy j .late →
        resumeFlow s = .next (moves (withBlock s { s.block with evt := none }) .idle
          (.returned s.env.turn (.event s.block.evt) :: failOutputs .protocolTimeout j)))) ∧
    (s.env.flow = .busy j .cancelling →
      resumeFlow s = .next (moves (withBlock s { s.block with wait := none }) .idle
        (.returned s.env.turn (.wasArmed (decide (s.block.wait ≠ none))) :: failOutputs .transportError j))) ∧
    (s.env.flow = .busy j .asleep ∨ s.env.flow = .busy j .woken →
      (s.block.wait ≠ none →
        deadlineFlow s = .next (moves (withBlock s { s.block with wait := none }) .idle
          (.returned s.env.turn (.wasArmed true) :: failOutputs .protocolTimeout j))) ∧
      (s.block.wait = none →
        deadlineFlow s = .next (moves s (.busy j .late) [.returned s.env.turn (.wasArmed false)])))

/-- R123, R210, R213 to R217, on the model's phases (log entries 18, 20, 21, 22, 35): `uploadImage` computes the
checksum of the unpadded image and turns to Erase; from there the upload is linear. A successful acknowledgement,
taken on a wake or after the deadline, turns to the next command, chunk after chunk in ascending order, End-Write
after the last, Verify after End-Write; any other status ends the call as failed; chunk i carries image bytes 4i to
4i+3, past the end 0xFF; a report equal to the image's own checksum is Verified, an unequal one Rejected, and either
ends the call. -/
def Obligations.UploadFollowsItsSequence : Prop :=
  ∀ (s : State) (image : List Byte),
    shellCall (.uploadImage (some image)) s =
      .next (moves (withBlock s { s.block with crc := some (~~~ checksumOf image) })
        (.busy (.ack (.upload image (checksumOf image) .erasing)) .arm)
        [.returned s.env.turn (.word (checksumOf image))]) ∧
    (∀ ours ph status,
      s.env.flow = .busy (.ack (.upload image ours ph)) .woken ∨ s.env.flow = .busy (.ack (.upload image ours ph)) .late →
      (s.block.evt = some (.acknowledgement true status) →
        resumeFlow s = .next (moves (withBlock s { s.block with evt := none }) (afterPhase image ours ph)
          (.returned s.env.turn (.event s.block.evt) :: progressAfter image ph))) ∧
      (s.block.evt = some (.acknowledgement false status) →
        resumeFlow s = .next (moves (withBlock s { s.block with evt := none }) .idle
          (.returned s.env.turn (.event s.block.evt) :: failOutputs .deviceRejected (.ack (.upload image ours ph)))))) ∧
    (∀ ours i, AckJob.instr (.upload image ours (.writing i)) = .frameWriteData
      (imageByte image (4 * i)) (imageByte image (4 * i + 1)) (imageByte image (4 * i + 2)) (imageByte image (4 * i + 3))) ∧
    (∀ ours v,
      s.env.flow = .busy (.sum (.verify ours)) .woken ∨ s.env.flow = .busy (.sum (.verify ours)) .late →
      s.block.evt = some (.checksumReport v) →
      resumeFlow s = .next (moves (withBlock s { s.block with evt := none }) .idle
        [.returned s.env.turn (.event s.block.evt),
          .finished (if ours = v then .verified v else .rejected ours v)]))

/-- R32, R191, R206, R209: while the command flow acts through shell calls only, every step keeps the slot
exclusive, keeps no wait of another command outstanding, and keeps whatever is armed or pending during a wait of the
kind that was armed. -/
def Obligations.StepKeepsTheHostDiscipline : Prop :=
  ∀ s t : State, HostInv s → step s = .next t → HostInv t

/-- R261: the host discipline holds at reset with any agenda of shell calls and arriving frames. -/
def Obligations.HostDisciplineHoldsAtReset : Prop :=
  ∀ (p : Config.Params) (agenda : List Invocation), ShellOnly agenda →
    HostInv { State.resetWith p with env := { Env.reset with agenda := agenda } }

/-- R182, R209: a host of that discipline never reaches DoubleArm, however frames and deadlines interleave. -/
def Obligations.HostNeverArmsTwice : Prop :=
  ∀ s : State, HostInv s → step s ≠ .fault .doubleArm
end

