-- ==== Sys2Proof/Laws/State.lean ====
section
/-! SUPPORT. Each named operation over State, field by field: what it writes and that it writes nothing else. -/

namespace Sys2Proof.Machine

@[simp] theorem State.setCrc_block (s : State) (v : Word32) : (s.setCrc v).block = { s.block with crc := some v } := rfl
@[simp] theorem State.setCrc_env (s : State) (v : Word32) : (s.setCrc v).env = s.env := rfl
@[simp] theorem State.setCrc_cfg (s : State) (v : Word32) : (s.setCrc v).cfg = s.cfg := rfl
@[simp] theorem State.setCrc_draws (s : State) (v : Word32) : (s.setCrc v).draws = s.draws := rfl

@[simp] theorem State.setTarget_block (s : State) (v : TargetId) : (s.setTarget v).block = { s.block with target := some v } := rfl
@[simp] theorem State.setTarget_env (s : State) (v : TargetId) : (s.setTarget v).env = s.env := rfl
@[simp] theorem State.setTarget_cfg (s : State) (v : TargetId) : (s.setTarget v).cfg = s.cfg := rfl
@[simp] theorem State.setTarget_draws (s : State) (v : TargetId) : (s.setTarget v).draws = s.draws := rfl

@[simp] theorem State.setVerbose_block (s : State) (v : Bool) : (s.setVerbose v).block = { s.block with verbose := v } := rfl
@[simp] theorem State.setVerbose_env (s : State) (v : Bool) : (s.setVerbose v).env = s.env := rfl
@[simp] theorem State.setVerbose_cfg (s : State) (v : Bool) : (s.setVerbose v).cfg = s.cfg := rfl
@[simp] theorem State.setVerbose_draws (s : State) (v : Bool) : (s.setVerbose v).draws = s.draws := rfl

@[simp] theorem State.setWait_block (s : State) (v : Option Kind) : (s.setWait v).block = { s.block with wait := v } := rfl
@[simp] theorem State.setWait_env (s : State) (v : Option Kind) : (s.setWait v).env = s.env := rfl
@[simp] theorem State.setWait_cfg (s : State) (v : Option Kind) : (s.setWait v).cfg = s.cfg := rfl
@[simp] theorem State.setWait_draws (s : State) (v : Option Kind) : (s.setWait v).draws = s.draws := rfl

@[simp] theorem State.setEvt_block (s : State) (v : Option Event) : (s.setEvt v).block = { s.block with evt := v } := rfl
@[simp] theorem State.setEvt_env (s : State) (v : Option Event) : (s.setEvt v).env = s.env := rfl
@[simp] theorem State.setEvt_cfg (s : State) (v : Option Event) : (s.setEvt v).cfg = s.cfg := rfl
@[simp] theorem State.setEvt_draws (s : State) (v : Option Event) : (s.setEvt v).draws = s.draws := rfl

@[simp] theorem State.output_block (s : State) (o : Output) : (s.output o).block = s.block := rfl
@[simp] theorem State.output_cfg (s : State) (o : Output) : (s.output o).cfg = s.cfg := rfl
@[simp] theorem State.output_draws (s : State) (o : Output) : (s.output o).draws = s.draws := rfl
@[simp] theorem State.output_agenda (s : State) (o : Output) : (s.output o).env.agenda = s.env.agenda := rfl
@[simp] theorem State.output_turn (s : State) (o : Output) : (s.output o).env.turn = s.env.turn := rfl
@[simp] theorem State.output_callback (s : State) (o : Output) : (s.output o).env.callback = s.env.callback := rfl
@[simp] theorem State.output_receiving (s : State) (o : Output) : (s.output o).env.receiving = s.env.receiving := rfl
@[simp] theorem State.output_sendAnswers (s : State) (o : Output) : (s.output o).env.sendAnswers = s.env.sendAnswers := rfl
@[simp] theorem State.output_flow (s : State) (o : Output) : (s.output o).env.flow = s.env.flow := rfl
@[simp] theorem State.output_calls (s : State) (o : Output) : (s.output o).env.calls = s.env.calls := rfl
@[simp] theorem State.output_trace (s : State) (o : Output) : (s.output o).env.trace = s.env.trace ++ [o] := rfl

@[simp] theorem State.setFlow_block (s : State) (f : Flow) : (s.setFlow f).block = s.block := rfl
@[simp] theorem State.setFlow_cfg (s : State) (f : Flow) : (s.setFlow f).cfg = s.cfg := rfl
@[simp] theorem State.setFlow_draws (s : State) (f : Flow) : (s.setFlow f).draws = s.draws := rfl
@[simp] theorem State.setFlow_agenda (s : State) (f : Flow) : (s.setFlow f).env.agenda = s.env.agenda := rfl
@[simp] theorem State.setFlow_turn (s : State) (f : Flow) : (s.setFlow f).env.turn = s.env.turn := rfl
@[simp] theorem State.setFlow_callback (s : State) (f : Flow) : (s.setFlow f).env.callback = s.env.callback := rfl
@[simp] theorem State.setFlow_receiving (s : State) (f : Flow) : (s.setFlow f).env.receiving = s.env.receiving := rfl
@[simp] theorem State.setFlow_sendAnswers (s : State) (f : Flow) : (s.setFlow f).env.sendAnswers = s.env.sendAnswers := rfl
@[simp] theorem State.setFlow_flow (s : State) (f : Flow) : (s.setFlow f).env.flow = f := rfl
@[simp] theorem State.setFlow_calls (s : State) (f : Flow) : (s.setFlow f).env.calls = s.env.calls := rfl
@[simp] theorem State.setFlow_trace (s : State) (f : Flow) : (s.setFlow f).env.trace = s.env.trace := rfl

@[simp] theorem State.setCalls_block (s : State) (cs : List ShellCall) : (s.setCalls cs).block = s.block := rfl
@[simp] theorem State.setCalls_cfg (s : State) (cs : List ShellCall) : (s.setCalls cs).cfg = s.cfg := rfl
@[simp] theorem State.setCalls_draws (s : State) (cs : List ShellCall) : (s.setCalls cs).draws = s.draws := rfl
@[simp] theorem State.setCalls_agenda (s : State) (cs : List ShellCall) :
    (s.setCalls cs).env.agenda = s.env.agenda := rfl
@[simp] theorem State.setCalls_turn (s : State) (cs : List ShellCall) : (s.setCalls cs).env.turn = s.env.turn := rfl
@[simp] theorem State.setCalls_callback (s : State) (cs : List ShellCall) :
    (s.setCalls cs).env.callback = s.env.callback := rfl
@[simp] theorem State.setCalls_receiving (s : State) (cs : List ShellCall) :
    (s.setCalls cs).env.receiving = s.env.receiving := rfl
@[simp] theorem State.setCalls_sendAnswers (s : State) (cs : List ShellCall) :
    (s.setCalls cs).env.sendAnswers = s.env.sendAnswers := rfl
@[simp] theorem State.setCalls_flow (s : State) (cs : List ShellCall) : (s.setCalls cs).env.flow = s.env.flow := rfl
@[simp] theorem State.setCalls_calls (s : State) (cs : List ShellCall) : (s.setCalls cs).env.calls = cs := rfl
@[simp] theorem State.setCalls_trace (s : State) (cs : List ShellCall) : (s.setCalls cs).env.trace = s.env.trace := rfl

@[simp] theorem State.answer_block (s : State) (r : Result) : (s.answer r).block = s.block := rfl
@[simp] theorem State.answer_cfg (s : State) (r : Result) : (s.answer r).cfg = s.cfg := rfl
@[simp] theorem State.answer_draws (s : State) (r : Result) : (s.answer r).draws = s.draws := rfl
@[simp] theorem State.answer_agenda (s : State) (r : Result) : (s.answer r).env.agenda = s.env.agenda := rfl
@[simp] theorem State.answer_turn (s : State) (r : Result) : (s.answer r).env.turn = s.env.turn := rfl
@[simp] theorem State.answer_callback (s : State) (r : Result) : (s.answer r).env.callback = s.env.callback := rfl
@[simp] theorem State.answer_receiving (s : State) (r : Result) : (s.answer r).env.receiving = s.env.receiving := rfl
@[simp] theorem State.answer_sendAnswers (s : State) (r : Result) : (s.answer r).env.sendAnswers = s.env.sendAnswers := rfl
@[simp] theorem State.answer_flow (s : State) (r : Result) : (s.answer r).env.flow = s.env.flow := rfl
@[simp] theorem State.answer_calls (s : State) (r : Result) : (s.answer r).env.calls = s.env.calls := rfl
@[simp] theorem State.answer_trace (s : State) (r : Result) : (s.answer r).env.trace = s.env.trace ++ [.returned s.env.turn r] := rfl

@[simp] theorem State.wake_block (s : State) : (s.wake).block = s.block := rfl
@[simp] theorem State.wake_cfg (s : State) : (s.wake).cfg = s.cfg := rfl
@[simp] theorem State.wake_draws (s : State) : (s.wake).draws = s.draws := rfl
@[simp] theorem State.wake_agenda (s : State) : (s.wake).env.agenda = s.env.agenda := rfl
@[simp] theorem State.wake_turn (s : State) : (s.wake).env.turn = s.env.turn := rfl
@[simp] theorem State.wake_callback (s : State) : (s.wake).env.callback = s.env.callback := rfl
@[simp] theorem State.wake_receiving (s : State) : (s.wake).env.receiving = s.env.receiving := rfl
@[simp] theorem State.wake_sendAnswers (s : State) : (s.wake).env.sendAnswers = s.env.sendAnswers := rfl
@[simp] theorem State.wake_flow (s : State) : (s.wake).env.flow = s.env.flow.onWake := rfl
@[simp] theorem State.wake_calls (s : State) : (s.wake).env.calls = s.env.calls := rfl
@[simp] theorem State.wake_trace (s : State) : (s.wake).env.trace = s.env.trace ++ [.wake] := rfl

@[simp] theorem State.note_block (s : State) (r : NoteReason) (f : Frame) : (s.note r f).block = s.block := rfl
@[simp] theorem State.note_cfg (s : State) (r : NoteReason) (f : Frame) : (s.note r f).cfg = s.cfg := rfl
@[simp] theorem State.note_draws (s : State) (r : NoteReason) (f : Frame) : (s.note r f).draws = s.draws := rfl
@[simp] theorem State.note_agenda (s : State) (r : NoteReason) (f : Frame) : (s.note r f).env.agenda = s.env.agenda := rfl
@[simp] theorem State.note_turn (s : State) (r : NoteReason) (f : Frame) : (s.note r f).env.turn = s.env.turn := rfl
@[simp] theorem State.note_callback (s : State) (r : NoteReason) (f : Frame) : (s.note r f).env.callback = s.env.callback := rfl
@[simp] theorem State.note_receiving (s : State) (r : NoteReason) (f : Frame) : (s.note r f).env.receiving = s.env.receiving := rfl
@[simp] theorem State.note_sendAnswers (s : State) (r : NoteReason) (f : Frame) : (s.note r f).env.sendAnswers = s.env.sendAnswers := rfl
@[simp] theorem State.note_flow (s : State) (r : NoteReason) (f : Frame) : (s.note r f).env.flow = s.env.flow := rfl
@[simp] theorem State.note_calls (s : State) (r : NoteReason) (f : Frame) : (s.note r f).env.calls = s.env.calls := rfl
@[simp] theorem State.note_trace (s : State) (r : NoteReason) (f : Frame) : (s.note r f).env.trace = s.env.trace ++ [.note r f] := rfl

@[simp] theorem State.transmit_block (s : State) (f : Frame) : (s.transmit f).block = s.block := rfl
@[simp] theorem State.transmit_cfg (s : State) (f : Frame) : (s.transmit f).cfg = s.cfg := rfl
@[simp] theorem State.transmit_draws (s : State) (f : Frame) : (s.transmit f).draws = s.draws := rfl
@[simp] theorem State.transmit_agenda (s : State) (f : Frame) : (s.transmit f).env.agenda = s.env.agenda := rfl
@[simp] theorem State.transmit_turn (s : State) (f : Frame) : (s.transmit f).env.turn = s.env.turn := rfl
@[simp] theorem State.transmit_callback (s : State) (f : Frame) : (s.transmit f).env.callback = s.env.callback := rfl
@[simp] theorem State.transmit_receiving (s : State) (f : Frame) : (s.transmit f).env.receiving = s.env.receiving := rfl
@[simp] theorem State.transmit_sendAnswers (s : State) (f : Frame) : (s.transmit f).env.sendAnswers = s.env.sendAnswers.tail := rfl
@[simp] theorem State.transmit_flow (s : State) (f : Frame) : (s.transmit f).env.flow = s.env.flow := rfl
@[simp] theorem State.transmit_calls (s : State) (f : Frame) : (s.transmit f).env.calls = s.env.calls := rfl
@[simp] theorem State.transmit_trace (s : State) (f : Frame) : (s.transmit f).env.trace = s.env.trace ++ [.handed f] ++ [.returned s.env.turn (sendResult s.sendAccepted)] := rfl

@[simp] theorem State.begin_block (s : State) (inv : Invocation) (rest : List Invocation) : (s.begin inv rest).block = s.block := rfl
@[simp] theorem State.begin_cfg (s : State) (inv : Invocation) (rest : List Invocation) : (s.begin inv rest).cfg = s.cfg := rfl
@[simp] theorem State.begin_draws (s : State) (inv : Invocation) (rest : List Invocation) : (s.begin inv rest).draws = s.draws := rfl
@[simp] theorem State.begin_agenda (s : State) (inv : Invocation) (rest : List Invocation) : (s.begin inv rest).env.agenda = rest := rfl
@[simp] theorem State.begin_turn (s : State) (inv : Invocation) (rest : List Invocation) : (s.begin inv rest).env.turn = inv.agent := rfl
@[simp] theorem State.begin_callback (s : State) (inv : Invocation) (rest : List Invocation) : (s.begin inv rest).env.callback = s.env.callback := rfl
@[simp] theorem State.begin_receiving (s : State) (inv : Invocation) (rest : List Invocation) : (s.begin inv rest).env.receiving = s.env.receiving := rfl
@[simp] theorem State.begin_sendAnswers (s : State) (inv : Invocation) (rest : List Invocation) : (s.begin inv rest).env.sendAnswers = s.env.sendAnswers := rfl
@[simp] theorem State.begin_flow (s : State) (inv : Invocation) (rest : List Invocation) : (s.begin inv rest).env.flow = s.env.flow := rfl
@[simp] theorem State.begin_calls (s : State) (inv : Invocation) (rest : List Invocation) : (s.begin inv rest).env.calls = s.env.calls := rfl
@[simp] theorem State.begin_trace (s : State) (inv : Invocation) (rest : List Invocation) : (s.begin inv rest).env.trace = s.env.trace := rfl

@[simp] theorem State.useDraw_block (s : State) : s.useDraw.block = s.block := rfl
@[simp] theorem State.useDraw_env (s : State) : s.useDraw.env = s.env := rfl
@[simp] theorem State.useDraw_cfg (s : State) : s.useDraw.cfg = s.cfg := rfl
@[simp] theorem State.useDraw_draws (s : State) : s.useDraw.draws = s.draws + 1 := rfl

end Sys2Proof.Machine
end

