-- ==== Sys2Proof/Laws/Ops.lean ====
section
/-! SUPPORT. One lemma per shared operation that says everything it can do; later proofs cite it instead of unfolding. -/

namespace Sys2Proof.Machine

open Sys2Proof.Safety

/-! Outcomes -/

@[simp] theorem andThen_next (s : State) (k : State → Out) : andThen (.next s) k = k s := rfl
@[simp] theorem andThen_fault (r : Fault) (k : State → Out) : andThen (.fault r) k = .fault r := rfl
@[simp] theorem andThen_refused (r : Refusal) (k : State → Out) : andThen (.refused r) k = .refused r := rfl

/-- A chain answers a next state only through one. -/
theorem andThen_eq_next {o : Out} {k : State → Out} {t : State} (h : andThen o k = .next t) :
    ∃ u, o = .next u ∧ k u = .next t := by
  cases o with
  | next u => exact ⟨u, rfl, h⟩
  | fault r => cases h
  | refused r => cases h

/-- A chain faults in its first part or after it. -/
theorem andThen_eq_fault {o : Out} {k : State → Out} {r : Fault} (h : andThen o k = .fault r) :
    o = .fault r ∨ ∃ u, o = .next u ∧ k u = .fault r := by
  cases o with
  | next u => exact .inr ⟨u, rfl, h⟩
  | fault r' => exact .inl h
  | refused r' => cases h

/-! The operations in the words of Safety -/

theorem answer_eq_returns (s : State) (r : Result) : s.answer r = returns s r := rfl
theorem raise_eq (r : Result) (s : State) : raise r s = .next (returns s r) := rfl
theorem note_eq_outputs (s : State) (r : NoteReason) (f : Frame) : s.note r f = outputs s [.note r f] := rfl
theorem wake_eq_wakes (s : State) : s.wake = wakes s [.wake] := rfl

/-- A WAKE followed by a NOTE is one pulse and both outputs. -/
theorem wake_note_eq (s : State) (r : NoteReason) (f : Frame) : s.wake.note r f = wakes s [.wake, .note r f] := by
  simp [wakes, State.wake, State.note, State.output, State.setFlow]

/-- `send` hands the frame over, takes the next answer and returns it. -/
theorem transmit_eq_sends (s : State) (f : Frame) : s.transmit f = sends s f := by
  simp [sends, State.transmit, State.answer, State.output, sendResult, State.sendAccepted]

/-- A WAKE moves a flow that is asleep, and only that, to woken. -/
theorem onWake_cases (f : Flow) :
    (∃ j, f = .busy j .asleep ∧ f.onWake = .busy j .woken) ∨ f.onWake = f := by
  cases f with
  | idle => exact .inr rfl
  | busy j st => cases st with
    | asleep => exact .inl ⟨j, rfl, rfl⟩
    | arm => exact .inr rfl
    | send => exact .inr rfl
    | woken => exact .inr rfl
    | cancelling => exact .inr rfl
    | late => exact .inr rfl

/-- The parameters' well-formedness, field by field (D24). -/
theorem params_wf_iff (p : Config.Params) :
    p.wf = true ↔ p.beginPayload.length ≤ 8 ∧ p.endPayload.length ≤ 8 ∧ p.reqPayload.length ≤ 8 := by
  unfold Config.Params.wf
  rw [Bool.and_eq_true, Bool.and_eq_true, decide_eq_true_iff, decide_eq_true_iff, decide_eq_true_iff, and_assoc]
  exact Iff.rfl

/-! The dispatcher -/

/-- A report of at least four bytes classifies from its first four (R152). -/
theorem classify_report (p0 p1 p2 p3 : Byte) (rest : List Byte) :
    classify Config.cmdChecksumReport (p0 :: p1 :: p2 :: p3 :: rest)
      = .classified (.checksumReport (bigEndian p0 p1 p2 p3)) := rfl

/-- A report of fewer than four bytes is a short payload (R154). -/
theorem classify_report_short {p : List Byte} (h : p.length < 4) :
    classify Config.cmdChecksumReport p = .unrecognised .shortPayload := by
  rcases p with _ | ⟨a, _ | ⟨b, _ | ⟨c, _ | ⟨d, rest⟩⟩⟩⟩
  · rfl
  · rfl
  · rfl
  · rfl
  · simp at h; omega

/-- An acknowledgement classifies from its first byte (R153). -/
theorem classify_ack (p0 : Byte) (rest : List Byte) :
    classify Config.cmdAck (p0 :: rest) = .classified (.acknowledgement (statusSuccess p0) p0) := rfl

/-- An acknowledgement without payload is a short payload (R154). -/
theorem classify_ack_short : classify Config.cmdAck [] = .unrecognised .shortPayload := rfl

/-- Any other command is unrecognised (R154). -/
theorem classify_other {c : CommandField} (h1 : c ≠ Config.cmdAck) (h2 : c ≠ Config.cmdChecksumReport) (p : List Byte) :
    classify c p = .unrecognised .unrecognisedCommand := by
  simp [classify, h1, h2]

/-- An acknowledgement that classifies carries the success bit of its status (R33). -/
theorem classify_ack_consistent {c : CommandField} {p : List Byte} {ok : Bool} {status : Byte}
    (h : classify c p = .classified (.acknowledgement ok status)) : ok = decide (status = 0xFF#8) := by
  unfold classify at h
  split at h
  · split at h <;> simp at h
  · split at h
    · split at h
      · simp only [Classification.classified.injEq, Event.acknowledgement.injEq] at h
        obtain ⟨rfl, rfl⟩ := h
        rfl
      · simp at h
    · simp at h

/-- Everything DISPATCH can do: a matching delivery, a WAKE and a note for the other kind, or a note alone. -/
theorem dispatchFrame_cases (f : Frame) (s : State) :
    (∃ e, classify (commandOf f.addressField) f.payload = .classified e ∧ s.block.wait = some e.kindOf ∧
      dispatchFrame f s = wakes (withBlock s { s.block with wait := none, evt := some e }) [.wake]) ∨
    (∃ e k, classify (commandOf f.addressField) f.payload = .classified e ∧ s.block.wait = some k ∧ k ≠ e.kindOf ∧
      dispatchFrame f s = wakes s [.wake, .note .kindMismatch f]) ∨
    (∃ r, dispatchFrame f s = outputs s [.note r f]) := by
  unfold dispatchFrame
  cases hc : classify (commandOf f.addressField) f.payload with
  | unrecognised r => exact .inr (.inr ⟨r, rfl⟩)
  | classified e =>
    cases hw : s.block.wait with
    | none => exact .inr (.inr ⟨.noWaiter, by simp [deliver, hw, note_eq_outputs]⟩)
    | some k =>
      by_cases hk : k = e.kindOf
      · refine .inl ⟨e, rfl, by rw [hk], ?_⟩
        simp [deliver, hw, hk, State.wake, wakes, withBlock, State.output, State.setFlow, State.setEvt, State.setWait]
      · exact .inr (.inl ⟨e, k, rfl, rfl, hk, by simp [deliver, hw, hk, wake_note_eq]⟩)

/-! The codec and the outbound frames -/

/-- The outcome of ENCODE when both checks pass. -/
theorem encodeFrame_of_le {p : Config.WideCmdResult} {d : BitVec 2} {t : TargetId} {c : Byte} {len : LenOperand}
    (hc : c.toNat ≤ 0x7F) (hl : len.toNat ≤ 8) (payload : List Byte) :
    encodeFrame p d t c len payload =
      match encodeAddress p d t c with
      | none => .wideRefused
      | some a => .built ⟨a, payload.take len.toNat⟩ := by
  have h1 : ¬ (Config.cmdLegalMax < c) := by simp [Config.cmdLegalMax, BitVec.lt_def]; omega
  have h2 : ¬ (Config.payloadMax < len.toNat) := by unfold Config.payloadMax; omega
  cases h : encodeAddress p d t c <;> simp only [encodeFrame, if_neg h1, if_neg h2, h]

/-- A command that fits its field is not wide (R92). -/
theorem isWide_of_le {c : Byte} (h : c.toNat ≤ 0x1F) : isWide c = false := by
  simp [isWide, Config.cmdFieldMax, BitVec.lt_def]; omega

/-- A command from 0x20 to 0x7F is wide (R92). -/
theorem isWide_of_between {c : Byte} (h : 0x20 ≤ c.toNat) (h' : c.toNat ≤ 0x7F) : isWide c = true := by
  simp [isWide, Config.cmdFieldMax, Config.cmdLegalMax, BitVec.lt_def, BitVec.le_def]; omega

/-- The address of a command that fits its field is the layout of R88. -/
theorem shiftOrAddress_field (t : TargetId) {c : Byte} (h : c.toNat ≤ 0x1F) :
    shiftOrAddress t c = 0#1 ++ t ++ (c.setWidth 5 : CommandField) := by
  have ht := t.isLt
  apply BitVec.eq_of_toNat_eq
  have e1 : t.toNat <<< 5 < 2048 := by
    rw [Nat.shiftLeft_eq]; omega
  simp only [shiftOrAddress, BitVec.toNat_or, BitVec.toNat_shiftLeft, BitVec.toNat_setWidth, BitVec.toNat_append,
    BitVec.toNat_ofNat]
  rw [Nat.mod_eq_of_lt (show t.toNat < 2 ^ 11 by omega), Nat.mod_eq_of_lt (show c.toNat < 2 ^ 11 by omega),
    Nat.mod_eq_of_lt (show c.toNat < 2 ^ 5 by omega)]
  simp [Nat.mod_eq_of_lt e1]

/-- SEND either hands a frame over, or fails without effect, or stops. -/
theorem sendCommand_cases {c : Byte} {p : List Byte} {s u : State} (h : sendCommand c p s = .next u) :
    (∃ r, u = returns s r) ∨ (∃ f, u = sends (s.afterEncode c) f) := by
  unfold sendCommand at h
  split at h
  · cases h
  · split at h
    · cases h; exact .inl ⟨_, rfl⟩
    · cases h; exact .inl ⟨_, rfl⟩
    · cases h
    · cases h; exact .inr ⟨_, transmit_eq_sends _ _⟩

/-- SEND of a command that fits its field with a payload of at most 8 bytes always hands its frame over (R205). -/
theorem sendCommand_sends {c : Byte} {p : List Byte} {s : State} {t : TargetId} (ht : s.block.target = some t)
    (hc : c.toNat ≤ 0x1F) (hp : p.length ≤ 8) :
    sendCommand c p s = .next (sends s (outboundFrame t (c.setWidth 5) p)) := by
  have hl : (lenOperand p).toNat = p.length := by
    simp only [lenOperand, BitVec.toNat_ofNat]; omega
  have hw := isWide_of_le hc
  have he : s.encodeFrame t c (lenOperand p) p = .built (outboundFrame t (c.setWidth 5) p) := by
    rw [State.encodeFrame, encodeFrame_of_le (by omega) (by omega)]
    simp [encodeAddress, hw, hl, shiftOrAddress_field t hc, outboundFrame]
  have ha : s.afterEncode c = s := by simp [State.afterEncode, hw]
  simp only [sendCommand, ht, he, ha, transmit_eq_sends]

end Sys2Proof.Machine
end

