-- ==== Sys2Proof/Laws/Crc.lean ====
section
/-! SUPPORT. The CRC step as a linear bijection (40_crc_engine.md R117, R119, R120). -/

namespace Sys2Proof.Machine

/-- One iteration as an exclusive or, whatever bit 0 is (R117: the conditional term read as a product). -/
theorem crcShift_eq (x : Word32) :
    crcShift x = (x >>> 1) ^^^ (if x.getLsbD 0 then Config.crcPoly else 0#32) := by
  unfold crcShift
  cases x.getLsbD 0 <;> simp

/-- The iteration is linear over exclusive or. -/
theorem crcShift_xor (x y : Word32) : crcShift (x ^^^ y) = crcShift x ^^^ crcShift y := by
  apply BitVec.eq_of_getLsbD_eq
  intro i _
  simp only [crcShift_eq, BitVec.getLsbD_xor, BitVec.getLsbD_ushiftRight]
  cases x.getLsbD 0 <;> cases y.getLsbD 0 <;> cases x.getLsbD (1 + i) <;> cases y.getLsbD (1 + i) <;>
    cases hp : Config.crcPoly.getLsbD i <;> simp [hp]

theorem crcShifts_xor (n : Nat) (x y : Word32) : crcShifts n (x ^^^ y) = crcShifts n x ^^^ crcShifts n y := by
  induction n generalizing x y with
  | zero => rfl
  | succ n ih => simp only [crcShifts, crcShift_xor, ih]

/-- While the low bits are zero the iterations are plain shifts. -/
theorem crcShifts_of_low_zero (n : Nat) (x : Word32) (h : ∀ i < n, x.getLsbD i = false) : crcShifts n x = x >>> n := by
  induction n generalizing x with
  | zero => rfl
  | succ n ih =>
    have h0 := h 0 (by omega)
    have hs : crcShift x = x >>> 1 := by rw [crcShift_eq, h0]; simp
    rw [crcShifts, hs, ih _ (fun i hi => by rw [BitVec.getLsbD_ushiftRight]; exact h _ (by omega)),
      ← BitVec.shiftRight_add, Nat.add_comm]

/-- The iteration loses nothing: bit 31 of its result is the bit shifted out (R119 c). -/
theorem crcShift_injective {x y : Word32} (h : crcShift x = crcShift y) : x = y := by
  have top : ∀ z : Word32, (crcShift z).getLsbD 31 = z.getLsbD 0 := by
    intro z
    rw [crcShift_eq]
    cases z.getLsbD 0 <;> simp [Config.crcPoly]
  have h0 : x.getLsbD 0 = y.getLsbD 0 := by rw [← top x, ← top y, h]
  rw [crcShift_eq, crcShift_eq, h0] at h
  have h1 : x >>> 1 = y >>> 1 := (BitVec.xor_left_inj _).mp h
  apply BitVec.eq_of_getLsbD_eq
  intro i _
  rcases i with _ | i
  · exact h0
  · simpa [BitVec.getLsbD_ushiftRight, Nat.add_comm] using congrArg (fun z => z.getLsbD i) h1

theorem crcShifts_injective {n : Nat} {x y : Word32} (h : crcShifts n x = crcShifts n y) : x = y := by
  induction n generalizing x y with
  | zero => exact h
  | succ n ih => exact crcShift_injective (ih h)

/-- The step is injective in the register. -/
theorem crcStep_injective_left {b : Byte} {x y : Word32} (h : crcStep x b = crcStep y b) : x = y :=
  (BitVec.xor_left_inj _).mp (crcShifts_injective h)

/-- The step is injective in the byte. -/
theorem crcStep_injective_right {r : Word32} {b d : Byte} (h : crcStep r b = crcStep r d) : b = d := by
  have h1 := (BitVec.xor_right_inj _).mp (crcShifts_injective h)
  apply BitVec.eq_of_toNat_eq
  have h2 := congrArg BitVec.toNat h1
  simp only [BitVec.toNat_setWidth] at h2
  omega

theorem crcRun_injective {x y : Word32} {l : List Byte} (h : crcRun x l = crcRun y l) : x = y := by
  induction l generalizing x y with
  | nil => exact h
  | cons b l ih => exact crcStep_injective_left (ih h)

/-- The register is the whole state of the engine (R120). -/
theorem crcRun_append (r : Word32) (x y : List Byte) : crcRun r (x ++ y) = crcRun (crcRun r x) y := by
  induction x generalizing r with
  | nil => rfl
  | cons b x ih => exact ih _

end Sys2Proof.Machine
end

