-- ==== Sys2Proof/Laws/Decode.lean ====
section
/-! SUPPORT. The decoder's parts against the encoder's: address bytes, counted payloads, frame operands, frame rows. -/

namespace Sys2Proof.Decode

/-- The two address bytes give the address back (R51, R81). -/
theorem address_of_bytes : ∀ a : Addr11, address (addressLo a) (addressHi a) = a := by decide +kernel

/-- The high byte of an address is below 8, so it is never refused. -/
theorem addressHi_lt (a : Addr11) : ¬ 8 ≤ (addressHi a).toNat := by
  have := a.isLt
  simp only [addressHi, BitVec.toNat_setWidth, BitVec.toNat_ushiftRight, Nat.shiftRight_eq_div_pow]
  omega

/-- Two bytes that stand for an address are its bytes. -/
theorem bytes_of_address {lo hi : Byte} (h : hi.toNat < 8) :
    addressLo (address lo hi) = lo ∧ addressHi (address lo hi) = hi := by
  have h1 := lo.isLt
  have e : (address lo hi).toNat = hi.toNat * 256 + lo.toNat := by
    simp only [address, BitVec.toNat_setWidth, BitVec.toNat_append]
    rw [← Nat.shiftLeft_add_eq_or_of_lt (by omega), Nat.shiftLeft_eq]
    omega
  constructor <;> apply BitVec.eq_of_toNat_eq <;>
    simp only [addressLo, addressHi, BitVec.toNat_setWidth, BitVec.toNat_ushiftRight, e, Nat.shiftRight_eq_div_pow] <;>
    omega

/-- A payload under its own length is accepted. -/
theorem counted_self (payload : List Byte) (i : Instr) : counted payload.length payload i = .ok i := by
  rw [counted, if_neg (Nat.lt_irrefl _), if_neg (Nat.lt_irrefl _)]

/-- What `counted` accepts has the length it names. -/
theorem counted_eq_ok {n : Nat} {payload : List Byte} {i j : Instr} (h : counted n payload i = .ok j) :
    payload.length = n ∧ j = i := by
  unfold counted at h
  split at h
  · cases h
  · split at h
    · cases h
    · cases h; exact ⟨by omega, rfl⟩

/-- A length of at most 8 survives as a byte (R84). -/
theorem lengthByte_toNat {payload : List Byte} (h : payload.length ≤ 8) :
    (BitVec.ofNat 8 payload.length).toNat = payload.length := by
  rw [BitVec.toNat_ofNat]; omega

/-- The bytes of a frame of the Frame type are read back as that frame (R98). -/
theorem frameOperand_encode (k : Frame → Instr) {f : Frame} (h : f.wf = true) :
    frameOperand k (Encode.frameOperand f) = .ok (k f) := by
  have h8 : f.payload.length ≤ 8 := of_decide_eq_true h
  simp only [Encode.frameOperand, frameOperand]
  rw [if_neg (addressHi_lt _), if_neg (by rw [lengthByte_toNat h8]; omega), lengthByte_toNat h8, counted_self,
    address_of_bytes]

/-- What a frame operand decodes to is a frame of the Frame type, and the bytes are its own. -/
theorem frameOperand_eq_ok {k : Frame → Instr} {bytes : List Byte} {i : Instr} (h : frameOperand k bytes = .ok i) :
    ∃ f : Frame, f.wf = true ∧ i = k f ∧ Encode.frameOperand f = bytes := by
  unfold frameOperand at h
  split at h
  · rename_i lo hi n payload
    split at h
    · cases h
    split at h
    · cases h
    obtain ⟨e, rfl⟩ := counted_eq_ok h
    obtain ⟨e1, e2⟩ := bytes_of_address (lo := lo) (hi := hi) (by omega)
    refine ⟨_, decide_eq_true (show payload.length ≤ 8 by omega), rfl, ?_⟩
    simp [Encode.frameOperand, e1, e2, e]
  · cases h

theorem noOperand_eq_ok {i j : Instr} {bytes : List Byte} (h : noOperand i bytes = .ok j) : bytes = [] ∧ j = i := by
  cases bytes with
  | nil => cases h; exact ⟨rfl, rfl⟩
  | cons b bs => cases h

theorem oneByte_eq_ok {k : Byte → Decoded} {bytes : List Byte} {i : Instr} (h : oneByte k bytes = .ok i) :
    ∃ b, bytes = [b] ∧ k b = .ok i := by
  rcases bytes with _ | ⟨b, _ | ⟨c, rest⟩⟩
  · cases h
  · exact ⟨b, rfl, h⟩
  · cases h

theorem framePayload_eq_ok {k : List Byte → Instr} {bytes : List Byte} {i : Instr} (h : framePayload k bytes = .ok i) :
    ∃ p : List Byte, p.length ≤ 8 ∧ bytes = BitVec.ofNat 8 p.length :: p ∧ i = k p := by
  rcases bytes with _ | ⟨n, p⟩
  · cases h
  · simp only [framePayload] at h
    split at h
    · cases h
    · obtain ⟨e, rfl⟩ := counted_eq_ok h
      exact ⟨p, by omega, by rw [e]; simp, rfl⟩

/-- No two frame rows overlap: an address matches at most one (R85). -/
theorem frameRows_disjoint : frameRows.Pairwise
    (fun r q => r.pattern &&& (r.mask &&& q.mask) ≠ q.pattern &&& (r.mask &&& q.mask)) := by decide

/-- The row of an address, with the address written out in its fields (R81, R85). -/
theorem frameRow_cases : ∀ a : Addr11, ∀ r ∈ frameRow a,
    (r.command = .erase ∧ a = 0#1 ++ a.extractLsb' 5 5 ++ 0x01#5) ∨
    (r.command = .beginWrite ∧ a = 0#1 ++ a.extractLsb' 5 5 ++ 0x02#5) ∨
    (r.command = .writeData ∧ a = 0#1 ++ a.extractLsb' 5 5 ++ 0x03#5) ∨
    (r.command = .endWrite ∧ a = 0#1 ++ a.extractLsb' 5 5 ++ 0x04#5) ∨
    (r.command = .requestChecksum ∧ a = 0#1 ++ a.extractLsb' 5 5 ++ 0x05#5) ∨
    (r.command = .acknowledgement ∧ a = a.extractLsb' 5 6 ++ 0x11#5) ∨
    (r.command = .checksumReport ∧ a = a.extractLsb' 5 6 ++ 0x12#5) := by decide +kernel

end Sys2Proof.Decode
end

