-- ==== Sys2Proof/Laws/Exec.lean ====
section
/-! SUPPORT. What any operation can do to the environment, and what each can do to the block: the inversion of exec. -/

namespace Sys2Proof.Machine

open Sys2Proof.Safety

/-- What every operation leaves alone: the parameters, the agenda, the turn, the calls that wait; outputs are only appended;
the command flow is at most woken. -/
structure Follows (s t : State) : Prop where
  cfg : t.cfg = s.cfg
  agenda : t.env.agenda = s.env.agenda
  turn : t.env.turn = s.env.turn
  calls : t.env.calls = s.env.calls
  trace : ∃ os, t.env.trace = s.env.trace ++ os
  flow : t.env.flow = s.env.flow ∨ t.env.flow = s.env.flow.onWake

theorem Follows.of_returns {s t : State} {r : Result} {b : Block} {n : Nat}
    (h : t = { (returns s r) with block := b, draws := n }) : Follows s t := by
  subst h
  exact ⟨rfl, rfl, rfl, rfl, ⟨_, rfl⟩, .inl rfl⟩

theorem Follows.of_block {s t : State} {b : Block} (h : t = withBlock s b) : Follows s t := by
  subst h
  exact ⟨rfl, rfl, rfl, rfl, ⟨[], (List.append_nil _).symm⟩, .inl rfl⟩

theorem Follows.of_wakes {s t : State} {b : Block} {os : List Output} (h : t = wakes (withBlock s b) os) :
    Follows s t := by
  subst h
  exact ⟨rfl, rfl, rfl, rfl, ⟨_, rfl⟩, .inr rfl⟩

theorem Follows.of_outputs {s t : State} {os : List Output} (h : t = outputs s os) : Follows s t := by
  subst h
  exact ⟨rfl, rfl, rfl, rfl, ⟨_, rfl⟩, .inl rfl⟩

/-- ENCODE may use a draw and touches nothing else. -/
theorem afterEncode_eq (s : State) (c : Byte) : ∃ n, s.afterEncode c = { s with draws := n } := by
  unfold State.afterEncode
  split
  · exact ⟨_, rfl⟩
  · exact ⟨s.draws, rfl⟩

theorem dispatchFrame_follows (f : Frame) (s : State) : Follows s (dispatchFrame f s) := by
  rcases dispatchFrame_cases f s with ⟨e, -, -, h⟩ | ⟨e, k, -, -, -, h⟩ | ⟨r, h⟩
  · exact .of_wakes h
  · exact .of_wakes (b := s.block) h
  · exact .of_outputs h

/-- The block after DISPATCH: as before, or a matching delivery (R30). -/
theorem dispatchFrame_block (f : Frame) (s : State) :
    (dispatchFrame f s).block = s.block ∨
    ∃ e, classify (commandOf f.addressField) f.payload = .classified e ∧ s.block.wait = some e.kindOf ∧
      (dispatchFrame f s).block = { s.block with wait := none, evt := some e } := by
  rcases dispatchFrame_cases f s with ⟨e, hc, hw, h⟩ | ⟨e, k, -, -, -, h⟩ | ⟨r, h⟩
  · exact .inr ⟨e, hc, hw, by rw [h]; rfl⟩
  · exact .inl (by rw [h]; rfl)
  · exact .inl (by rw [h]; rfl)

theorem sendCommand_follows {c : Byte} {p : List Byte} {s t : State} (h : sendCommand c p s = .next t) :
    Follows s t ∧ t.block = s.block := by
  obtain ⟨n, hn⟩ := afterEncode_eq s c
  rcases sendCommand_cases h with ⟨r, rfl⟩ | ⟨f, rfl⟩
  · exact ⟨.of_returns (b := s.block) (n := s.draws) rfl, rfl⟩
  · rw [hn]
    exact ⟨⟨rfl, rfl, rfl, rfl, ⟨_, rfl⟩, .inl rfl⟩, rfl⟩

/-- A SEND faults only for want of a target (R205). -/
theorem sendCommand_fault {c : Byte} {p : List Byte} {s : State} {r : Fault} (h : sendCommand c p s = .fault r) :
    r = .targetUnset := by
  unfold sendCommand at h
  split at h
  · cases h; rfl
  · split at h <;> cases h

/-- What ENCODE can do: return a result, at most using a draw. -/
theorem execEncode_cases {t : TargetId} {c : Byte} {len : LenOperand} {p : List Byte} {s u : State}
    (h : execEncode t c len p s = .next u) : ∃ r n, u = { (returns s r) with draws := n } := by
  obtain ⟨n, hn⟩ := afterEncode_eq s c
  unfold execEncode at h
  split at h
  · cases h; exact ⟨_, s.draws, rfl⟩
  · cases h; exact ⟨_, s.draws, rfl⟩
  · cases h
  · cases h; rw [hn]; exact ⟨_, n, rfl⟩

/-- Every operation keeps to `Follows`. -/
theorem exec_follows {i : Instr} {s t : State} (h : exec i s = .next t) : Follows s t := by
  cases i with
  | crcInit => cases h; exact .of_block rfl
  | crcUpdate b =>
    simp only [exec, execCrcUpdate] at h
    split at h <;> cases h
    exact .of_block rfl
  | crcRead =>
    simp only [exec, execCrcRead] at h
    split at h <;> cases h
    exact .of_returns (b := s.block) (n := s.draws) rfl
  | checksum bytes =>
    cases h
    exact ⟨rfl, rfl, rfl, rfl, ⟨_, rfl⟩, .inl rfl⟩
  | encode a b c d =>
    obtain ⟨r, n, rfl⟩ := execEncode_cases h
    exact .of_returns (b := s.block) rfl
  | decode f => cases h; exact .of_returns (b := s.block) (n := s.draws) rfl
  | dispatch f => cases h; exact dispatchFrame_follows f s
  | armWait k =>
    simp only [exec, execArmWait] at h
    split at h <;> cases h
    exact .of_block rfl
  | cancelWait => cases h; exact ⟨rfl, rfl, rfl, rfl, ⟨_, rfl⟩, .inl rfl⟩
  | takeEvent => cases h; exact ⟨rfl, rfl, rfl, rfl, ⟨_, rfl⟩, .inl rfl⟩
  | setTarget id => cases h; exact .of_block rfl
  | setVerbose b => cases h; exact .of_block rfl
  | frameErase => exact (sendCommand_follows (c := Config.cmdErase) (p := []) h).1
  | frameBeginWrite => exact (sendCommand_follows (c := Config.cmdBeginWrite) (p := s.cfg.beginPayload) h).1
  | frameWriteData a b c d => exact (sendCommand_follows (c := Config.cmdWriteData) (p := [a, b, c, d]) h).1
  | frameEndWrite => exact (sendCommand_follows (c := Config.cmdEndWrite) (p := s.cfg.endPayload) h).1
  | frameRequestChecksum => exact (sendCommand_follows (c := Config.cmdRequestChecksum) (p := s.cfg.reqPayload) h).1
  | frameAcknowledgement x p => cases h; exact dispatchFrame_follows _ s
  | frameChecksumReport x p => cases h; exact dispatchFrame_follows _ s

/-- What an operation can do to the wait slot: nothing, deliver what classified, arm and empty, cancel, take (R192). -/
theorem exec_slot {i : Instr} {s t : State} (h : exec i s = .next t) :
    (t.block.wait = s.block.wait ∧ t.block.evt = s.block.evt) ∨
    (TouchesSlot i ∧ ∃ c p e, classify c p = .classified e ∧ s.block.wait = some e.kindOf ∧ t.block.wait = none ∧
      t.block.evt = some e) ∨
    (∃ k, i = .armWait k ∧ s.block.wait = none ∧ t.block.wait = some k ∧ t.block.evt = none) ∨
    (i = .cancelWait ∧ t.block.wait = none ∧ t.block.evt = s.block.evt) ∨
    (i = .takeEvent ∧ t.block.wait = s.block.wait ∧ t.block.evt = none) := by
  have keep : ∀ {u : State}, u.block = s.block → u.block.wait = s.block.wait ∧ u.block.evt = s.block.evt := by
    intro u hu; rw [hu]; exact ⟨rfl, rfl⟩
  have disp : ∀ f, ((dispatchFrame f s).block.wait = s.block.wait ∧ (dispatchFrame f s).block.evt = s.block.evt) ∨
      (∃ c p e, classify c p = .classified e ∧ s.block.wait = some e.kindOf ∧
        (dispatchFrame f s).block.wait = none ∧ (dispatchFrame f s).block.evt = some e) := by
    intro f
    rcases dispatchFrame_block f s with hb | ⟨e, hc, hw, hb⟩
    · exact .inl (keep hb)
    · exact .inr ⟨_, _, e, hc, hw, by rw [hb], by rw [hb]⟩
  have deliv : ∀ f, TouchesSlot i → t = dispatchFrame f s →
      (t.block.wait = s.block.wait ∧ t.block.evt = s.block.evt) ∨
      (TouchesSlot i ∧ ∃ c p e, classify c p = .classified e ∧ s.block.wait = some e.kindOf ∧ t.block.wait = none ∧
        t.block.evt = some e) := by
    rintro f hi rfl
    exact (disp f).imp id fun h => ⟨hi, h⟩
  have sub : ∀ {a b c : Prop}, a ∨ b → a ∨ b ∨ c := fun h => h.elim .inl (fun h => .inr (.inl h))
  cases i with
  | crcInit => cases h; exact .inl ⟨rfl, rfl⟩
  | crcUpdate b =>
    simp only [exec, execCrcUpdate] at h
    split at h <;> cases h
    exact .inl ⟨rfl, rfl⟩
  | crcRead =>
    simp only [exec, execCrcRead] at h
    split at h <;> cases h
    exact .inl ⟨rfl, rfl⟩
  | checksum bytes => cases h; exact .inl ⟨rfl, rfl⟩
  | encode a b c d =>
    obtain ⟨r, n, rfl⟩ := execEncode_cases h
    exact .inl ⟨rfl, rfl⟩
  | decode f => cases h; exact .inl ⟨rfl, rfl⟩
  | dispatch f => cases h; exact sub (deliv f (.inl ⟨f, rfl⟩) rfl)
  | armWait k =>
    simp only [exec, execArmWait] at h
    split at h <;> cases h
    rename_i hw
    exact .inr (.inr (.inl ⟨k, rfl, by simpa [Block.armed] using hw, rfl, rfl⟩))
  | cancelWait => cases h; exact .inr (.inr (.inr (.inl ⟨rfl, rfl, rfl⟩)))
  | takeEvent => cases h; exact .inr (.inr (.inr (.inr ⟨rfl, rfl, rfl⟩)))
  | setTarget id => cases h; exact .inl ⟨rfl, rfl⟩
  | setVerbose b => cases h; exact .inl ⟨rfl, rfl⟩
  | frameErase => exact .inl (keep (sendCommand_follows (c := Config.cmdErase) (p := []) h).2)
  | frameBeginWrite => exact .inl (keep (sendCommand_follows (c := Config.cmdBeginWrite) (p := s.cfg.beginPayload) h).2)
  | frameWriteData a b c d => exact .inl (keep (sendCommand_follows (c := Config.cmdWriteData) (p := [a, b, c, d]) h).2)
  | frameEndWrite => exact .inl (keep (sendCommand_follows (c := Config.cmdEndWrite) (p := s.cfg.endPayload) h).2)
  | frameRequestChecksum => exact .inl (keep (sendCommand_follows (c := Config.cmdRequestChecksum) (p := s.cfg.reqPayload) h).2)
  | frameAcknowledgement x p => cases h; exact sub (deliv _ (.inr (.inr (.inr (.inr (.inl ⟨x, p, rfl⟩))))) rfl)
  | frameChecksumReport x p => cases h; exact sub (deliv _ (.inr (.inr (.inr (.inr (.inr ⟨x, p, rfl⟩))))) rfl)

/-- Only ARM_WAIT on an armed slot faults with DoubleArm (R182). -/
theorem exec_doubleArm {i : Instr} {s : State} (h : exec i s = .fault .doubleArm) :
    ∃ k, i = .armWait k ∧ s.block.wait ≠ none := by
  have send : ∀ {c p}, sendCommand c p s ≠ .fault .doubleArm := fun hs => by cases sendCommand_fault hs
  cases i with
  | armWait k =>
    refine ⟨k, rfl, ?_⟩
    simp only [exec, execArmWait] at h
    split at h
    · rename_i hw
      intro hn
      simp [Block.armed, hn] at hw
    · cases h
  | crcUpdate b => simp only [exec, execCrcUpdate] at h; split at h <;> cases h
  | crcRead => simp only [exec, execCrcRead] at h; split at h <;> cases h
  | encode a b c d => simp only [exec, execEncode, raise] at h; split at h <;> cases h
  | frameErase => exact absurd h (send (c := Config.cmdErase) (p := []))
  | frameBeginWrite => exact absurd h (send (c := Config.cmdBeginWrite) (p := s.cfg.beginPayload))
  | frameWriteData a b c d => exact absurd h (send (c := Config.cmdWriteData) (p := [a, b, c, d]))
  | frameEndWrite => exact absurd h (send (c := Config.cmdEndWrite) (p := s.cfg.endPayload))
  | frameRequestChecksum => exact absurd h (send (c := Config.cmdRequestChecksum) (p := s.cfg.reqPayload))
  | crcInit => cases h
  | checksum bytes => cases h
  | decode f => cases h
  | dispatch f => cases h
  | cancelWait => cases h
  | takeEvent => cases h
  | setTarget id => cases h
  | setVerbose b => cases h
  | frameAcknowledgement x p => cases h
  | frameChecksumReport x p => cases h

end Sys2Proof.Machine
end

