-- ==== Sys2Proof/Laws/Flow.lean ====
section
/-! SUPPORT. What the host's moves between operations can do: they leave the block alone and end between calls or before an
ARM_WAIT. -/

namespace Sys2Proof.Machine

open Sys2Proof.Safety

/-- A move of the host that settles a command: the block, the parameters, the agenda and the calls that wait as they were, outputs appended, the
flow between calls or about to arm. -/
structure Settles (s t : State) : Prop where
  block : t.block = s.block
  cfg : t.cfg = s.cfg
  agenda : t.env.agenda = s.env.agenda
  calls : t.env.calls = s.env.calls
  trace : ∃ os, t.env.trace = s.env.trace ++ os
  flow : t.env.flow = .idle ∨ ∃ j, t.env.flow = .busy j .arm

theorem startJob_settles (j : Job) (s : State) : Settles s (startJob j s) :=
  ⟨rfl, rfl, rfl, rfl, ⟨[], (List.append_nil _).symm⟩, .inr ⟨j, rfl⟩⟩

theorem finishCall_settles (o : CallOutcome) (s : State) : Settles s (finishCall o s) :=
  ⟨rfl, rfl, rfl, rfl, ⟨_, rfl⟩, .inl rfl⟩

theorem startChunk_settles (image : List Byte) (ours : Word32) (i : Nat) (s : State) :
    Settles s (startChunk image ours i s) := by
  unfold startChunk
  split <;> exact startJob_settles _ _

/-- A move after an output is a move. -/
theorem Settles.after_output {s t : State} {o : Output} (h : Settles (s.output o) t) : Settles s t := by
  obtain ⟨os, hos⟩ := h.trace
  exact ⟨h.block, h.cfg, h.agenda, h.calls, ⟨o :: os, by simpa using hos⟩, h.flow⟩

theorem reportProgress_cases (image : List Byte) (i : Nat) (s : State) :
    reportProgress image i s = s ∨ ∃ o, reportProgress image i s = s.output o := by
  unfold reportProgress
  split
  · exact .inr ⟨_, rfl⟩
  · exact .inl rfl

theorem afterAck_settles (j : AckJob) (s : State) : Settles s (afterAck j s) := by
  cases j with
  | erase => exact finishCall_settles _ s
  | upload image ours ph =>
    cases ph with
    | erasing => exact startJob_settles _ s
    | beginWrite => exact startChunk_settles _ _ _ s
    | writing i =>
      rcases reportProgress_cases image i s with h | ⟨o, h⟩
      · simp only [afterAck, h]; exact startChunk_settles _ _ _ s
      · simp only [afterAck, h]; exact (startChunk_settles _ _ _ _).after_output
    | endWrite => exact startJob_settles _ s

theorem failCall_settles (j : Job) (c : FailCause) (s : State) : Settles s (failCall j c s) := by
  unfold failCall
  split
  · exact (finishCall_settles _ _).after_output
  · exact finishCall_settles _ s

theorem settleAck_settles (j : AckJob) (ok : Bool) (s : State) : Settles s (settleAck j ok s) := by
  unfold settleAck
  split
  · exact afterAck_settles j s
  · exact failCall_settles _ _ s

theorem settleSum_settles (j : SumJob) (v : Word32) (s : State) : Settles s (settleSum j v s) := by
  unfold settleSum
  split
  · exact finishCall_settles _ s
  · split <;> exact finishCall_settles _ s

/-- What settles a command is an event of the kind it armed. -/
theorem settle_eq_some {j : Job} {e : Option Event} {s t : State} (h : j.settle e s = some t) :
    Settles s t ∧ ∃ e', e = some e' ∧ e'.kindOf = j.kind := by
  unfold Job.settle at h
  split at h
  · cases h; exact ⟨settleAck_settles _ _ s, _, rfl, rfl⟩
  · cases h; exact ⟨settleSum_settles _ _ s, _, rfl, rfl⟩
  · cases h
  · cases h
  · cases h

/-- An event of the kind that was armed always settles its command (R191). -/
theorem settle_of_kind {j : Job} {e : Event} (h : e.kindOf = j.kind) (s : State) : ∃ t, j.settle (some e) s = some t := by
  cases j <;> cases e <;> simp_all [Job.settle, Job.kind, Event.kindOf]

/-- A failed command ends its call, a Write-Data with its counts first (R213, R219). -/
theorem failCall_eq (j : Job) (c : FailCause) (s : State) : failCall j c s = moves s .idle (failOutputs c j) := by
  rcases j with (_ | ⟨image, ours, ph⟩) | b
  · rfl
  · cases ph <;> simp [failCall, Job.chunk, finishCall, State.output, State.setFlow, failOutputs, moves]
  · rfl

/-- Image bytes remain exactly while chunks remain (R213). -/
theorem lt_chunkCount (image : List Byte) (i : Nat) : i < chunkCount image ↔ 4 * i < image.length := by
  unfold chunkCount Config.chunkSize; omega

/-- Chunk `i` comes next, or End-Write (R210, R213). -/
theorem startChunk_eq (image : List Byte) (ours : Word32) (i : Nat) (s : State) :
    startChunk image ours i s = moves s (afterPhase.chunkOrEnd image ours i) [] := by
  unfold startChunk afterPhase.chunkOrEnd
  by_cases h : i < chunkCount image
  · simp [h, (lt_chunkCount image i).1 h, startJob, State.setFlow, moves]
  · simp [h, mt (lt_chunkCount image i).2 h, startJob, State.setFlow, moves]

/-- The progress reported for a chunk (R215). -/
theorem reportProgress_eq (image : List Byte) (i : Nat) (s : State) :
    reportProgress image i s = outputs s (progressAfter image (.writing i)) := by
  show ite (min (4 * (i + 1)) image.length % 1024 = 0 ∨ min (4 * (i + 1)) image.length = image.length)
      (s.output (.progress (min (4 * (i + 1)) image.length))) s
    = outputs s (ite (min (4 * (i + 1)) image.length % 1024 = 0 ∨ min (4 * (i + 1)) image.length = image.length)
      [.progress (min (4 * (i + 1)) image.length)] [])
  by_cases h : min (4 * (i + 1)) image.length % 1024 = 0 ∨ min (4 * (i + 1)) image.length = image.length
  · rw [if_pos h, if_pos h]; rfl
  · rw [if_neg h, if_neg h]; simp [outputs]

/-- The success of a phase turns to the next command, a chunk reporting progress first (R210, R215). -/
theorem afterAck_upload_eq (image : List Byte) (ours : Word32) (ph : Phase) (s : State) :
    afterAck (.upload image ours ph) s = moves s (afterPhase image ours ph) (progressAfter image ph) := by
  cases ph with
  | erasing => simp [afterAck, startJob, State.setFlow, moves, afterPhase, progressAfter]
  | beginWrite => exact startChunk_eq image ours 0 s
  | writing i =>
    have e : afterAck (.upload image ours (.writing i)) s = startChunk image ours (i + 1) (reportProgress image i s) := rfl
    rw [e, startChunk_eq, reportProgress_eq]
    simp [moves, outputs, afterPhase]
  | endWrite => simp [afterAck, startJob, State.setFlow, moves, afterPhase, progressAfter]

/-- An event of another kind, or none, does not settle a command (R191, R206). -/
theorem settle_of_other_kind {j : Job} {e : Option Event} (h : ∀ e', e = some e' → e'.kindOf ≠ j.kind) (s : State) :
    j.settle e s = none := by
  rcases e with _ | e
  · cases j <;> rfl
  · have := h e rfl
    cases j <;> cases e <;> simp_all [Job.settle, Job.kind, Event.kindOf]

/-- With TARGET written every command of the host hands its frame over (R205, R211 to R217). -/
theorem job_sends {j : Job} {s : State} {t : TargetId} (ht : s.block.target = some t) (hp : s.cfg.wf = true) :
    exec j.instr s = .next (sends s (commandFrame s.cfg t j)) := by
  obtain ⟨h1, h2, h3⟩ := (params_wf_iff s.cfg).1 hp
  have send : ∀ {c p}, c.toNat ≤ 0x1F → p.length ≤ 8 →
      sendCommand c p s = .next (sends s (outboundFrame t (c.setWidth 5) p)) := fun hc hl => sendCommand_sends ht hc hl
  rcases j with (_ | ⟨image, ours, ph⟩) | b
  · exact send (c := Config.cmdErase) (p := []) (by decide) (by simp)
  · cases ph with
    | erasing => exact send (c := Config.cmdErase) (p := []) (by decide) (by simp)
    | beginWrite => exact send (c := Config.cmdBeginWrite) (by decide) h1
    | writing i =>
      have chunk : ∀ b0 b1 b2 b3, exec (.frameWriteData b0 b1 b2 b3) s =
          .next (sends s (outboundFrame t 0x03#5 [b0, b1, b2, b3])) :=
        fun b0 b1 b2 b3 => send (c := Config.cmdWriteData) (p := [b0, b1, b2, b3]) (by decide) (by simp)
      exact chunk _ _ _ _
    | endWrite => exact send (c := Config.cmdEndWrite) (by decide) h2
  · exact send (c := Config.cmdRequestChecksum) (by decide) h3

/-- With TARGET unwritten every command of the host is the fault TargetUnset (R26, R205). -/
theorem job_targetUnset {j : Job} {s : State} (ht : s.block.target = none) : exec j.instr s = .fault .targetUnset := by
  have send : ∀ c p, sendCommand c p s = .fault .targetUnset := fun c p => by simp [sendCommand, ht]
  rcases j with (_ | ⟨image, ours, ph⟩) | b
  · exact send Config.cmdErase []
  · cases ph with
    | erasing => exact send Config.cmdErase []
    | beginWrite => exact send Config.cmdBeginWrite _
    | writing i =>
      have chunk : ∀ b0 b1 b2 b3, exec (.frameWriteData b0 b1 b2 b3) s = .fault .targetUnset :=
        fun b0 b1 b2 b3 => send Config.cmdWriteData [b0, b1, b2, b3]
      exact chunk _ _ _ _
    | endWrite => exact send Config.cmdEndWrite _
  · exact send Config.cmdRequestChecksum _

end Sys2Proof.Machine
end

