-- ==== Sys2Proof/Laws/PerInstr.lean ====
section
/-! SUPPORT. Statements made per instruction: the form of each operation's bytes (30_encoding.md R81, R85, R96, R97). -/

namespace Sys2Proof.Laws.EncodingForm

open Sys2Proof.Safety

/-- How many bytes an operation's request has. -/
def byteLength : Instr → Nat
  | .crcInit => 1
  | .crcUpdate _ => 2
  | .crcRead => 1
  | .checksum bytes => bytes.length + 1
  | .encode _ _ _ payload => payload.length + 4
  | .decode f => f.payload.length + 4
  | .dispatch f => f.payload.length + 4
  | .armWait _ => 2
  | .cancelWait => 1
  | .takeEvent => 1
  | .setTarget _ => 2
  | .setVerbose _ => 2
  | .frameErase => 2
  | .frameBeginWrite => 2
  | .frameWriteData _ _ _ _ => 6
  | .frameEndWrite => 2
  | .frameRequestChecksum => 2
  | .frameAcknowledgement _ payload => payload.length + 3
  | .frameChecksumReport _ payload => payload.length + 3

/-- A request has its length whatever target bits an outbound row carries; an operation with an OPSEL number begins with
that number, and exactly the frame rows have none (R96). -/
def Statement (i : Instr) : Prop :=
  ∀ t : TargetId, (encodeWith t i).length = byteLength i ∧
    (i.format = .opsel → ∃ n, opselOf i = some n ∧ (encodeWith t i).head? = some (BitVec.ofNat 8 n)) ∧
    (i.format = .canid11 → opselOf i = none)

/-- An operation with an OPSEL number. -/
theorem ofOpsel {i : Instr} {n : Nat} (hf : i.format = .opsel) (hn : opselOf i = some n)
    (hl : ∀ t, (encodeWith t i).length = byteLength i) (hh : ∀ t, (encodeWith t i).head? = some (BitVec.ofNat 8 n)) :
    Statement i :=
  fun t => ⟨hl t, fun _ => ⟨n, hn, hh t⟩, fun h => by rw [hf] at h; cases h⟩

/-- A frame row. -/
theorem ofFrame {i : Instr} (hf : i.format = .canid11) (hn : opselOf i = none)
    (hl : ∀ t, (encodeWith t i).length = byteLength i) : Statement i :=
  fun t => ⟨hl t, fun h => by (rw [hf] at h; cases h), fun _ => hn⟩

theorem crcInit : Statement .crcInit := ofOpsel rfl rfl (fun _ => rfl) (fun _ => rfl)
theorem crcUpdate (b : Byte) : Statement (.crcUpdate b) := ofOpsel rfl rfl (fun _ => rfl) (fun _ => rfl)
theorem crcRead : Statement .crcRead := ofOpsel rfl rfl (fun _ => rfl) (fun _ => rfl)
theorem checksum (bytes : List Byte) : Statement (.checksum bytes) :=
  ofOpsel rfl rfl (fun _ => rfl) (fun _ => rfl)
theorem encode (target : TargetId) (command : Byte) (len : LenOperand) (payload : List Byte) :
    Statement (.encode target command len payload) :=
  ofOpsel rfl rfl (fun _ => rfl) (fun _ => rfl)
theorem decode (frame : Frame) : Statement (.decode frame) :=
  ofOpsel rfl rfl (fun _ => rfl) (fun _ => rfl)
theorem dispatch (frame : Frame) : Statement (.dispatch frame) :=
  ofOpsel rfl rfl (fun _ => rfl) (fun _ => rfl)
theorem armWait (kind : Kind) : Statement (.armWait kind) := ofOpsel rfl rfl (fun _ => rfl) (fun _ => rfl)
theorem cancelWait : Statement .cancelWait := ofOpsel rfl rfl (fun _ => rfl) (fun _ => rfl)
theorem takeEvent : Statement .takeEvent := ofOpsel rfl rfl (fun _ => rfl) (fun _ => rfl)
theorem setTarget (id : TargetId) : Statement (.setTarget id) := ofOpsel rfl rfl (fun _ => rfl) (fun _ => rfl)
theorem setVerbose (flag : Bool) : Statement (.setVerbose flag) := ofOpsel rfl rfl (fun _ => rfl) (fun _ => rfl)
theorem frameErase : Statement .frameErase := ofFrame rfl rfl (fun _ => rfl)
theorem frameBeginWrite : Statement .frameBeginWrite := ofFrame rfl rfl (fun _ => rfl)
theorem frameWriteData (b0 b1 b2 b3 : Byte) : Statement (.frameWriteData b0 b1 b2 b3) := ofFrame rfl rfl (fun _ => rfl)
theorem frameEndWrite : Statement .frameEndWrite := ofFrame rfl rfl (fun _ => rfl)
theorem frameRequestChecksum : Statement .frameRequestChecksum := ofFrame rfl rfl (fun _ => rfl)
theorem frameAcknowledgement (target : TargetField) (payload : List Byte) :
    Statement (.frameAcknowledgement target payload) := ofFrame rfl rfl (fun _ => rfl)
theorem frameChecksumReport (target : TargetField) (payload : List Byte) :
    Statement (.frameChecksumReport target payload) := ofFrame rfl rfl (fun _ => rfl)

end Sys2Proof.Laws.EncodingForm
end

