-- ==== Sys2Proof/Laws/Step.lean ====
section
/-! SUPPORT. The inversion of the step: what each kind of agenda entry can do, in terms of exec. -/

namespace Sys2Proof.Machine

open Sys2Proof.Safety

/-- Everything a step of the command flow inside a shell call can do (R206): at most one operation of the block, then a move
of the host. -/
theorem resumeFlow_cases {s t : State} (h : resumeFlow s = .next t) :
    t = s ∨
    (∃ j u, s.env.flow = .busy j .arm ∧ exec (.armWait j.kind) s = .next u ∧ t = u.setFlow (.busy j .send)) ∨
    (∃ j u st, s.env.flow = .busy j .send ∧ exec j.instr s = .next u ∧ t = u.setFlow (.busy j st) ∧
      (st = .asleep ∨ st = .cancelling)) ∨
    (∃ j u, s.env.flow = .busy j .woken ∧ exec .takeEvent s = .next u ∧
      ((Settles u t ∧ ∃ e, s.block.evt = some e ∧ e.kindOf = j.kind) ∨
        (j.settle s.block.evt u = none ∧ t = u.setFlow (.busy j .asleep)))) ∨
    (∃ j u, s.env.flow = .busy j .late ∧ exec .takeEvent s = .next u ∧ Settles u t) ∨
    (∃ j u, s.env.flow = .busy j .cancelling ∧ exec .cancelWait s = .next u ∧ Settles u t) := by
  unfold resumeFlow at h
  split at h
  · cases h; exact .inl rfl
  · rename_i j hf
    obtain ⟨u, h1, h2⟩ := andThen_eq_next h; cases h2
    exact .inr (.inl ⟨j, u, hf, h1, rfl⟩)
  · rename_i j hf
    obtain ⟨u, h1, h2⟩ := andThen_eq_next h; cases h2
    refine .inr (.inr (.inl ⟨j, u, _, hf, h1, rfl, ?_⟩))
    split <;> simp
  · cases h; exact .inl rfl
  · rename_i j hf
    obtain ⟨u, h1, h2⟩ := andThen_eq_next h
    refine .inr (.inr (.inr (.inl ⟨j, u, hf, h1, ?_⟩)))
    split at h2
    · rename_i v hv; cases h2; obtain ⟨a, e, b, c⟩ := settle_eq_some hv; exact .inl ⟨a, e, b, c⟩
    · rename_i hv; cases h2; exact .inr ⟨hv, rfl⟩
  · rename_i j hf
    obtain ⟨u, h1, h2⟩ := andThen_eq_next h; cases h2
    exact .inr (.inr (.inr (.inr (.inr ⟨j, u, hf, h1, failCall_settles _ _ _⟩))))
  · rename_i j hf
    obtain ⟨u, h1, h2⟩ := andThen_eq_next h
    refine .inr (.inr (.inr (.inr (.inl ⟨j, u, hf, h1, ?_⟩))))
    split at h2
    · rename_i v hv; cases h2; exact (settle_eq_some hv).1
    · cases h2; exact failCall_settles _ _ _

/-- Everything a deadline can do (R184, R206). -/
theorem deadlineFlow_cases {s t : State} (h : deadlineFlow s = .next t) :
    t = s ∨ ∃ j u, (s.env.flow = .busy j .asleep ∨ s.env.flow = .busy j .woken) ∧ exec .cancelWait s = .next u ∧
      ((s.block.wait ≠ none ∧ Settles u t) ∨ (s.block.wait = none ∧ t = u.setFlow (.busy j .late))) := by
  unfold deadlineFlow at h
  have go : ∀ j, (s.env.flow = .busy j .asleep ∨ s.env.flow = .busy j .woken) →
      andThen (exec .cancelWait s) (fun t => if s.block.armed then .next (failCall j .protocolTimeout t)
        else .next (t.setFlow (.busy j .late))) = .next t →
      t = s ∨ ∃ j u, (s.env.flow = .busy j .asleep ∨ s.env.flow = .busy j .woken) ∧ exec .cancelWait s = .next u ∧
        ((s.block.wait ≠ none ∧ Settles u t) ∨ (s.block.wait = none ∧ t = u.setFlow (.busy j .late))) := by
    intro j hf h
    obtain ⟨u, h1, h2⟩ := andThen_eq_next h
    refine .inr ⟨j, u, hf, h1, ?_⟩
    split at h2
    · rename_i ha; cases h2; refine .inl ⟨?_, failCall_settles _ _ _⟩
      intro hn; simp [Block.armed, hn] at ha
    · rename_i ha; cases h2; refine .inr ⟨?_, rfl⟩
      simpa [Block.armed] using ha
  split at h
  · rename_i j hf; exact go j (.inl hf) h
  · rename_i j hf; exact go j (.inr hf) h
  all_goals (cases h; exact .inl rfl)

/-- Everything a shell call can do (R203): at most one operation, which does not touch the wait slot. -/
theorem shellCall_cases {c : ShellCall} {s t : State} (h : shellCall c s = .next t) :
    (∃ i u, (∀ k, i ≠ .armWait k) ∧ exec i s = .next u ∧ u.block.wait = s.block.wait ∧ u.block.evt = s.block.evt ∧
      t.block = u.block ∧ t.cfg = u.cfg ∧ t.env.agenda = u.env.agenda ∧ (∃ os, t.env.trace = u.env.trace ++ os) ∧
      (t.env.flow = u.env.flow ∨ ∃ j, t.env.flow = .busy j .arm)) ∨
    (t.block = s.block ∧ t.cfg = s.cfg ∧ t.env.agenda = s.env.agenda ∧ (∃ os, t.env.trace = s.env.trace ++ os) ∧
      (t.env.flow = s.env.flow ∨ ∃ j, t.env.flow = .busy j .arm)) := by
  unfold shellCall at h
  split at h
  · cases h; exact .inr ⟨rfl, rfl, rfl, ⟨[], (List.append_nil _).symm⟩, .inr ⟨_, rfl⟩⟩
  · cases h; exact .inr ⟨rfl, rfl, rfl, ⟨[], (List.append_nil _).symm⟩, .inr ⟨_, rfl⟩⟩
  · cases h; exact .inr ⟨rfl, rfl, rfl, ⟨_, rfl⟩, .inl rfl⟩
  · rename_i img
    obtain ⟨u, h1, h2⟩ := andThen_eq_next h; cases h2
    refine .inl ⟨_, u, ?_, h1, ?_⟩
    · simp
    · cases h1; exact ⟨rfl, rfl, rfl, rfl, rfl, ⟨[], (List.append_nil _).symm⟩, .inr ⟨_, rfl⟩⟩
  · split at h
    · obtain ⟨u, h1, h2⟩ := andThen_eq_next h; cases h2
      refine .inl ⟨_, u, ?_, h1, ?_⟩
      · simp
      · cases h1; exact ⟨rfl, rfl, rfl, rfl, rfl, ⟨_, rfl⟩, .inl rfl⟩
    · cases h; exact .inr ⟨rfl, rfl, rfl, ⟨_, rfl⟩, .inl rfl⟩
  · obtain ⟨u, h1, h2⟩ := andThen_eq_next h; cases h2
    refine .inl ⟨_, u, ?_, h1, ?_⟩
    · simp
    · cases h1; exact ⟨rfl, rfl, rfl, rfl, rfl, ⟨_, rfl⟩, .inl rfl⟩

/-- With no call waiting nothing begins, otherwise the oldest leaves the queue and begins. -/
theorem nextCall_cases (s : State) :
    (s.env.calls = [] ∧ nextCall s = .next s) ∨
    ∃ c rest, s.env.calls = c :: rest ∧ nextCall s = shellCall c (s.setCalls rest) := by
  unfold nextCall
  split
  · rename_i h; exact .inl ⟨h, rfl⟩
  · rename_i c rest h; exact .inr ⟨c, rest, h, rfl⟩

/-- Everything the host can do beside raw operations (R202, R203, R206, R207): throw a switch or queue a call, leaving the
block, the parameters, the agenda, the outputs and the flow alone; begin a call between calls; go on with one; pass its
deadline. -/
theorem hostAct_cases (a : HostAction) (s : State) :
    (∃ t, hostAct a s = .next t ∧ t.block = s.block ∧ t.cfg = s.cfg ∧ t.env.agenda = s.env.agenda ∧
      t.env.trace = s.env.trace ∧ t.env.flow = s.env.flow) ∨
    (∃ c cs, s.env.flow = .idle ∧ hostAct a s = shellCall c (s.setCalls cs)) ∨
    hostAct a s = resumeFlow s ∨ hostAct a s = deadlineFlow s := by
  have begins : ∀ u : State, (∃ cs, u = s.setCalls cs) → s.env.flow = .idle →
      (∃ t, nextCall u = .next t ∧ t.block = s.block ∧ t.cfg = s.cfg ∧ t.env.agenda = s.env.agenda ∧
        t.env.trace = s.env.trace ∧ t.env.flow = s.env.flow) ∨
      (∃ c cs, s.env.flow = .idle ∧ nextCall u = shellCall c (s.setCalls cs)) := by
    rintro u ⟨cs, rfl⟩ hi
    rcases nextCall_cases (s.setCalls cs) with ⟨-, h⟩ | ⟨c, rest, -, h⟩
    · exact .inl ⟨_, h, rfl, rfl, rfl, rfl, rfl⟩
    · exact .inr ⟨c, rest, hi, h⟩
  cases a with
  | onReceive => exact .inl ⟨_, rfl, rfl, rfl, rfl, rfl, rfl⟩
  | startReceiving => exact .inl ⟨_, rfl, rfl, rfl, rfl, rfl, rfl⟩
  | call c =>
    by_cases hi : s.env.flow = .idle
    · have e : hostAct (.call c) s = nextCall (s.setCalls (s.env.calls ++ [c])) := if_pos hi
      rw [e]; exact (begins _ ⟨_, rfl⟩ hi).imp id .inl
    · exact .inl ⟨_, if_neg hi, rfl, rfl, rfl, rfl, rfl⟩
  | resume =>
    by_cases hi : s.env.flow = .idle
    · have e : hostAct .resume s = nextCall s := if_pos hi
      rw [e]; exact (begins _ ⟨s.env.calls, rfl⟩ hi).imp id .inl
    · exact .inr (.inr (.inl (if_neg hi)))
  | deadline => exact .inr (.inr (.inr rfl))

/-- An arrival is dispatched or does not reach the block (R201, R202). -/
theorem receiveArrival_cases {f : BusFrame} {s t : State} (h : receiveArrival f s = .next t) :
    t = s ∨ ∃ g, exec (.dispatch g) s = .next t := by
  unfold receiveArrival at h
  split at h
  · split at h
    · cases h
    · exact .inr ⟨_, h⟩
  · cases h; exact .inl rfl

/-- A request that is not refused runs the operation it decodes to, invoked by an agent that may. -/
theorem runRequest_cases {a : Agent} {fmt : Format} {bytes : List Byte} {s : State} {o : Out}
    (h : runRequest a fmt bytes s = o) (ho : ∀ r, o ≠ .refused r) :
    ∃ i, exec i s = o ∧ mayInvoke a i = true := by
  unfold runRequest at h
  split at h
  · subst h; exact absurd rfl (ho _)
  · rename_i i hi
    split at h
    · rename_i hm
      exact ⟨i, h, hm⟩
    · subst h; exact absurd rfl (ho _)

/-- A property of the block that every operation keeps is kept by every step. -/
theorem step_keeps_block (P : Block → Prop) (hP : ∀ i s t, P s.block → exec i s = .next t → P t.block)
    {s t : State} (hs : P s.block) (h : step s = .next t) : P t.block := by
  unfold step at h
  split at h
  · cases h; exact hs
  rename_i inv rest hag
  have hb : (s.begin inv rest).block = s.block := rfl
  generalize hu : s.begin inv rest = u at *
  rw [← hb] at hs
  unfold perform at h
  split at h
  · obtain ⟨i, h1, -⟩ := runRequest_cases h (by simp); exact hP i _ _ hs h1
  · rcases receiveArrival_cases h with rfl | ⟨g, h1⟩
    · exact hs
    · exact hP _ _ _ hs h1
  · rename_i a
    rcases hostAct_cases a u with ⟨v, e, hv, -⟩ | ⟨c, cs, -, e⟩ | e | e <;> rw [e] at h
    · cases h; rw [hv]; exact hs
    · rcases shellCall_cases h with ⟨i, v, -, h1, -, -, h2, -⟩ | ⟨h2, -⟩
      · rw [h2]; exact hP i (u.setCalls cs) _ hs h1
      · rw [h2]; exact hs
    · rcases resumeFlow_cases h with rfl | ⟨j, v, -, h1, rfl⟩ | ⟨j, v, st, -, h1, rfl, -⟩ |
        ⟨j, v, -, h1, ⟨h2, -⟩ | ⟨-, rfl⟩⟩ | ⟨j, v, -, h1, h2⟩ | ⟨j, v, -, h1, h2⟩
      · exact hs
      · exact hP _ u v hs h1
      · exact hP _ u v hs h1
      · rw [h2.block]; exact hP _ _ _ hs h1
      · exact hP _ u v hs h1
      · rw [h2.block]; exact hP _ _ _ hs h1
      · rw [h2.block]; exact hP _ _ _ hs h1
    · rcases deadlineFlow_cases h with rfl | ⟨j, v, -, h1, ⟨-, h2⟩ | ⟨-, rfl⟩⟩
      · exact hs
      · rw [h2.block]; exact hP _ _ _ hs h1
      · exact hP _ u v hs h1

end Sys2Proof.Machine
end

