-- ==== Sys2Proof/Tests/Slice0.lean ====
section
/-! SUPPORT. Tests of single steps against the worked vectors of 95_test_vectors.md, and a witness for every hypothesis of the
obligations. -/

namespace Sys2Proof.Tests

open Sys2Proof.Machine Sys2Proof.Safety

/-! Helpers -/

/-- The next state, if there is one. -/
def nextOf : Out → Option State
  | .next t => some t
  | .fault _ => none
  | .refused _ => none

/-- The fault, if there is one. -/
def faultOf : Out → Option Fault
  | .fault r => some r
  | .next _ => none
  | .refused _ => none

/-- The refusal, if there is one. -/
def refusalOf : Out → Option Refusal
  | .refused r => some r
  | .next _ => none
  | .fault _ => none

/-- What an outcome added to the block and the outputs. -/
def seen (o : Out) : Option (Block × List Output) := (nextOf o).map (fun t => (t.block, t.env.trace))

/-- The operation a request decodes to. -/
def decoded (fmt : Format) (bytes : List Byte) : Option Instr :=
  match decode fmt bytes with
  | .ok i => some i
  | .error _ => none

/-- Why a request is no operation. -/
def rejected (fmt : Format) (bytes : List Byte) : Option DecodeReject :=
  match decode fmt bytes with
  | .ok _ => none
  | .error why => some why

/-- The reset state with a slot. -/
def slot (wait : Option Kind) (evt : Option Event) : State := withBlock State.reset ⟨none, none, false, wait, evt⟩

/-- The reset state with a CRC register. -/
def crcState (r : Word32) : State := withBlock State.reset ⟨some r, none, false, none, none⟩

/-- The reset state with a target. -/
def targetState (t : TargetId) : State := withBlock State.reset ⟨none, some t, false, none, none⟩

/-- The reset state with another WIDE_CMD_RESULT. -/
def wideState (w : Config.WideCmdResult) : State :=
  State.resetWith { Config.Params.default with wideCmd := w }

/-- A state with an agenda, a flow and reception started. -/
def running (b : Block) (flow : Flow) (agenda : List Invocation) : State :=
  { State.reset with block := b
                     env := { Env.reset with agenda := agenda, flow := flow, callback := true, receiving := true } }

/-- `n` bytes. -/
def bytesOf (n : Nat) : List Byte := List.replicate n 0xA5#8

/-- The nine bytes "123456789". -/
def digits : List Byte := [0x31, 0x32, 0x33, 0x34, 0x35, 0x36, 0x37, 0x38, 0x39]

/-- A standard data frame from the bus. -/
def busFrame (identifier : Nat) (data : List Byte) : BusFrame := ⟨false, false, identifier, data⟩

/-- An empty block. -/
def idleBlock : Block := ⟨none, none, false, none, none⟩

/-! WellFormed: an ill-formed term for each check -/

theorem test_wf_encode_len : (Instr.encode 3 1 2 [0x00#8]).wf = false := by decide
theorem test_wf_decode_nine : (Instr.decode ⟨0x061, bytesOf 9⟩).wf = false := by decide
theorem test_wf_dispatch_nine : (Instr.dispatch ⟨0x061, bytesOf 9⟩).wf = false := by decide
theorem test_wf_ack_nine : (Instr.frameAcknowledgement 3 (bytesOf 9)).wf = false := by decide
theorem test_wf_report_nine : (Instr.frameChecksumReport 3 (bytesOf 9)).wf = false := by decide
theorem test_wf_encode_fifteen : (Instr.encode 3 1 15 (bytesOf 15)).wf = true := by decide
theorem test_wf_dispatch_eight : (Instr.dispatch ⟨0x7FF, bytesOf 8⟩).wf = true := by decide

/-! Decoding, each word written out from R96, R97 or from R81, R85. The OPSEL number and the 11 address bits are the spec's;
operand bytes, kind and flag bytes, the low address byte first and the length byte are the model's layout (log entry 2). -/

theorem test_decode_crcInit : decoded .opsel [0b00000000#8] = some .crcInit := by decide
theorem test_decode_crcUpdate : decoded .opsel [0b00000001#8, 0x31] = some (.crcUpdate 0x31) := by decide
theorem test_decode_crcRead : decoded .opsel [0b00000010#8] = some .crcRead := by decide
theorem test_decode_checksum : decoded .opsel [0b00000011#8, 0x61, 0x62] = some (.checksum [0x61, 0x62]) := by decide
theorem test_decode_encode :
    decoded .opsel [0b00000100#8, 0x1F, 0xFF, 0x02, 0xAA, 0xBB] = some (.encode 0x1F 0xFF 2 [0xAA, 0xBB]) := by decide
theorem test_decode_decode :
    decoded .opsel [0b00000101#8, 0b10110001, 0b000, 0x01, 0xFF] = some (.decode ⟨0x0B1, [0xFF]⟩) := by decide
theorem test_decode_dispatch :
    decoded .opsel [0b00000110#8, 0b11111111, 0b111, 0x00] = some (.dispatch ⟨0x7FF, []⟩) := by decide
theorem test_decode_armWait : decoded .opsel [0b00000111#8, 0x01] = some (.armWait .checksum) := by decide
theorem test_decode_cancelWait : decoded .opsel [0b00001000#8] = some .cancelWait := by decide
theorem test_decode_takeEvent : decoded .opsel [0b00001001#8] = some .takeEvent := by decide
theorem test_decode_setTarget : decoded .opsel [0b00001010#8, 0x1F] = some (.setTarget 0x1F) := by decide
theorem test_decode_setVerbose : decoded .opsel [0b00001011#8, 0x01] = some (.setVerbose true) := by decide
-- address 0 00011 00001: low byte 01100001, high bits 000
theorem test_decode_frameErase : decoded .canid11 [0b01100001#8, 0b000] = some .frameErase := by decide
-- address 0 11111 00010: low byte 11100010, high bits 011
theorem test_decode_frameBeginWrite : decoded .canid11 [0b11100010#8, 0b011] = some .frameBeginWrite := by decide
theorem test_decode_frameWriteData :
    decoded .canid11 [0b01100011#8, 0b000, 0xDE, 0xAD, 0xBE, 0xEF] = some (.frameWriteData 0xDE 0xAD 0xBE 0xEF) := by
  decide
theorem test_decode_frameEndWrite : decoded .canid11 [0b00000100#8, 0b000] = some .frameEndWrite := by decide
theorem test_decode_frameRequestChecksum :
    decoded .canid11 [0b11100101#8, 0b011] = some .frameRequestChecksum := by decide
-- address 100000 10001: bit 10 set, target field 0x20
theorem test_decode_frameAcknowledgement :
    decoded .canid11 [0b00010001#8, 0b100, 0x01, 0xFF] = some (.frameAcknowledgement 0x20 [0xFF]) := by decide
theorem test_decode_frameChecksumReport : decoded .canid11 [0b01110010#8, 0b000, 0x04, 0x12, 0x34, 0x56, 0x78]
    = some (.frameChecksumReport 0x03 [0x12, 0x34, 0x56, 0x78]) := by decide
-- an outbound command with bit 10 set is no row, and neither is a command without a name (R85, R91)
theorem test_decode_noRow : rejected .canid11 [0b00000001#8, 0b100] = some .noFrameRow ∧
    rejected .canid11 [0b01110011#8, 0b000] = some .noFrameRow := by decide
theorem test_decode_reserved :
    rejected .opsel [0x0C#8] = some (.reservedOpsel 12) ∧ rejected .opsel [0x0F#8] = some (.reservedOpsel 15) := by decide
theorem test_decode_nineBytes : rejected .opsel (0x06#8 :: 0x61 :: 0x00 :: 9 :: bytesOf 9) = some .frameTooLong := by
  decide

/-! The CRC engine (95_test_vectors.md section 2.1) -/

theorem test_crcInit : (nextOf (exec .crcInit State.reset)).map (·.block.crc) = some (some 0xFFFFFFFF#32) := by decide
theorem test_crcUpdate :
    (nextOf (exec (.crcUpdate 0x31) (crcState 0xFFFFFFFF#32))).map (·.block.crc) = some (some 0x7C231048#32) ∧
    (nextOf (exec (.crcUpdate 0x00) (crcState 0xFFFFFFFF#32))).map (·.block.crc) = some (some 0x2DFD1072#32) := by
  decide +kernel
theorem test_crcRead : (nextOf (exec .crcRead (crcState 0x340BC6D9#32))).map (·.env.trace)
    = some [.returned .command (.word 0xCBF43926#32)] := by decide +kernel
theorem test_crcUpdate_unwritten : faultOf (exec (.crcUpdate 0x00) State.reset) = some .crcUninitialised := by decide
theorem test_checksum_digits : checksumOf digits = 0xCBF43926#32 := by decide +kernel
theorem test_checksum_short :
    checksumOf [] = 0x00000000#32 ∧ checksumOf [0xDE, 0xAD, 0xBE, 0xEF] = 0x7C9CA35A#32 := by decide +kernel
theorem test_crcTable_CE : crcTable 0xCE = 0x7CDCEFB7#32 := by decide +kernel

/-! The codec (section 2.2) -/

-- V-COD-2, V-COD-8
theorem test_encode_builds :
    (nextOf (exec (.encode 0x1F 0x1F 8 (bytesOf 8)) State.reset)).map (·.env.trace)
      = some [.returned .command (.frame ⟨0x3FF, bytesOf 8⟩)] ∧
    (nextOf (exec (.encode 0x00 0x7F 0 []) State.reset)).map (·.env.trace)
      = some [.returned .command (.frame ⟨0x07F, []⟩)] := by decide
-- R141, V-COD-10, U3
theorem test_encode_fails :
    (nextOf (exec (.encode 0x03 0x80 9 (bytesOf 9)) State.reset)).map (·.env.trace)
      = some [.returned .command (.invalidCommand 0x80)] ∧
    (nextOf (exec (.encode 0x03 0x01 9 (bytesOf 9)) State.reset)).map (·.env.trace)
      = some [.returned .command (.invalidLength 9)] ∧
    refusalOf (exec (.encode 0x00 0x20 0 []) (wideState .refuse)) = some .wideCommand := by decide
theorem test_decode_0B1 : (nextOf (exec (.decode ⟨0x0B1, [0xFF]⟩) State.reset)).map (·.env.trace)
    = some [.returned .command (.fields 0x05 0x11 [0xFF])] := by decide
theorem test_decode_V_COD_11 : (nextOf (exec (.decode ⟨0x7FF, []⟩) State.reset)).map (·.env.trace)
    = some [.returned .command (.fields 0x3F 0x1F [])] := by decide

/-! The dispatcher (section 2.3) -/

theorem test_dispatch_V_DSP_1 : seen (exec (.dispatch ⟨0x071, [0xFF]⟩) (slot (some .confirmation) none)) = some
    (⟨none, none, false, none, some (.acknowledgement true 0xFF)⟩, [.wake]) := by decide
theorem test_dispatch_V_DSP_6 : seen (exec (.dispatch ⟨0x072, [0x12, 0x34, 0x56, 0x78]⟩) (slot (some .confirmation) none))
    = some (⟨none, none, false, some .confirmation, none⟩,
      [.wake, .note .kindMismatch ⟨0x072, [0x12, 0x34, 0x56, 0x78]⟩]) := by decide
theorem test_ack_V_DSP_13 : seen (exec (.frameAcknowledgement 0x3F [0xFE]) (slot (some .confirmation) none)) = some
    (⟨none, none, false, none, some (.acknowledgement false 0xFE)⟩, [.wake]) := by decide
theorem test_ack_V_DSP_4 : seen (exec (.frameAcknowledgement 0x03 []) (slot (some .confirmation) none)) = some
    (⟨none, none, false, some .confirmation, none⟩, [.note .shortPayload ⟨0x071, []⟩]) := by decide
theorem test_report_V_DSP_11 :
    seen (exec (.frameChecksumReport 0x03 [0xDE, 0xAD, 0xBE, 0xEF, 0x01, 0x02, 0x03, 0x04]) (slot (some .checksum) none))
      = some (⟨none, none, false, none, some (.checksumReport 0xDEADBEEF)⟩, [.wake]) := by decide
theorem test_report_V_DSP_8 : seen (exec (.frameChecksumReport 0x03 [0x12, 0x34, 0x56]) (slot (some .checksum) none))
    = some (⟨none, none, false, some .checksum, none⟩, [.note .shortPayload ⟨0x072, [0x12, 0x34, 0x56]⟩]) := by decide

/-! The wait slot and the configuration (section 2.5) -/

theorem test_armWait_V_WAIT_3 : seen (exec (.armWait .checksum) (slot none (some (.acknowledgement true 0xFF)))) = some
    (⟨none, none, false, some .checksum, none⟩, []) := by decide
theorem test_armWait_V_WAIT_4 :
    faultOf (exec (.armWait .confirmation) (slot (some .confirmation) none)) = some .doubleArm := by decide
theorem test_cancelWait_armed : seen (exec .cancelWait (slot (some .checksum) none)) = some
    (idleBlock, [.returned .command (.wasArmed true)]) := by decide
theorem test_cancelWait_delivered : seen (exec .cancelWait (slot none (some (.acknowledgement true 0xFF)))) = some
    (⟨none, none, false, none, some (.acknowledgement true 0xFF)⟩, [.returned .command (.wasArmed false)]) := by decide
theorem test_takeEvent : seen (exec .takeEvent (slot none (some (.checksumReport 0xCBF43926)))) = some
    (idleBlock, [.returned .command (.event (some (.checksumReport 0xCBF43926)))]) := by decide
theorem test_setTarget : seen (exec (.setTarget 0x04) (slot (some .confirmation) none)) = some
    (⟨none, some 0x04, false, some .confirmation, none⟩, []) := by decide
theorem test_setVerbose : seen (exec (.setVerbose true) State.reset) = some (⟨none, none, true, none, none⟩, []) := by
  decide

/-! Outbound frames (sections 2.5, 3) -/

theorem test_frameErase_V_CFG_3 : faultOf (exec .frameErase State.reset) = some .targetUnset := by decide
theorem test_frameErase_parameter :
    (nextOf (exec .frameErase (State.resetWith { Config.Params.default with targetReset := some 0 }))).map (·.env.trace)
      = some [.handed ⟨0x001, []⟩, .returned .command .sent] := by decide
theorem test_frameBeginWrite : (nextOf (exec .frameBeginWrite (targetState 3))).map (·.env.trace)
    = some [.handed ⟨0x062, []⟩, .returned .command .sent] := by decide
theorem test_frameWriteData : (nextOf (exec (.frameWriteData 0x00 0x01 0xFF 0xFF) (targetState 3))).map (·.env.trace)
    = some [.handed ⟨0x063, [0x00, 0x01, 0xFF, 0xFF]⟩, .returned .command .sent] := by decide
theorem test_frameEndWrite : (nextOf (exec .frameEndWrite (targetState 3))).map (·.env.trace)
    = some [.handed ⟨0x064, []⟩, .returned .command .sent] := by decide
theorem test_frameRequestChecksum_V_CFG_1 : (nextOf (exec .frameRequestChecksum (targetState 0x1F))).map (·.env.trace)
    = some [.handed ⟨0x3E5, []⟩, .returned .command .sent] := by decide

/-! The step and the host -/

theorem test_step_reserved : refusalOf (step (running idleBlock .idle [.operation .command .opsel [0x0C]]))
    = some (.undecodable (.reservedOpsel 12)) := by decide
theorem test_step_wrongAgent : refusalOf (step (running idleBlock .idle [.operation .receive .opsel [0x00]]))
    = some .wrongAgent := by decide
-- R188: the block accepts SET_TARGET while a wait is armed, inside a shell call too
theorem test_step_insideACall :
    (nextOf (step (running ⟨none, some 3, false, some .confirmation, none⟩ (.busy (.ack .erase) .asleep)
      [.operation .command .opsel [0x0A, 0x04]]))).map (·.block.target) = some (some 4) := by decide
-- R60, R203: a call inside another waits, and begins once the flow is between calls
theorem test_step_callWaits :
    (nextOf (step (running idleBlock (.busy (.ack .erase) .asleep) [.host (.call .queryChecksum)]))).map
      (fun t => (t.env.calls, t.env.flow)) = some ([.queryChecksum], .busy (.ack .erase) .asleep) := by decide
theorem test_nextCall :
    (nextOf (nextCall ((running idleBlock .idle []).setCalls [.queryChecksum, .erase]))).map
      (fun t => (t.env.calls, t.env.flow)) = some ([.erase], .busy (.sum .query) .arm) := by decide
theorem test_step_beforeStart :
    step { State.reset with env := { Env.reset with agenda := [.arrival (busFrame 0x071 [0xFF])] } } =
      .next { State.reset with env := { Env.reset with turn := .receive } } := rfl
theorem test_step_wakesTheFlow :
    (nextOf (step (running ⟨none, some 3, false, some .confirmation, none⟩ (.busy (.ack .erase) .asleep)
      [.arrival (busFrame 0x071 [0xFF])]))).map (·.env.flow) = some (.busy (.ack .erase) .woken) := by decide
theorem test_step_transportError :
    (nextOf (resumeFlow { targetState 3 with env :=
      { Env.reset with flow := .busy (.ack .erase) .send, sendAnswers := [false] } })).map (·.env.flow)
      = some (.busy (.ack .erase) .cancelling) := by decide
-- P4: chunk 512 of the 2050-byte image is image bytes 2048, 2049 and two fill bytes; 513 chunks
theorem test_lastChunk : chunkByte (bytesOf 2050) 512 1 = 0xA5#8 ∧ chunkByte (bytesOf 2050) 512 2 = 0xFF#8 ∧
    chunkCount (bytesOf 2050) = 513 := by decide +kernel
theorem test_placed : decodeTableWord 4 0x0 = some .crcInit ∧ decodeTableWord 11 0x3E5 = some .frameRequestChecksum ∧
    (nextOf (step (State.reset.withFetchWord 4 0x0))).map (·.block.crc) = some (some 0xFFFFFFFF#32) := by decide

/-! Witnesses: for every obligation with hypotheses, states and operands that meet all of them, at the boundaries of each
clause. Each is named after its obligation. -/

/-- A frame of command 0x11 for the wait kind Confirmation. -/
def ackFrame : Frame := ⟨0x071, [0xFF]⟩

/-- A report frame. -/
def reportFrame : Frame := ⟨0x072, [0x00, 0x00, 0x01, 0x00]⟩

/-- An agenda of one request. -/
def oneRequest (a : Agent) (flow : Flow) (bytes : List Byte) : State :=
  running idleBlock flow [.operation a .opsel bytes]

theorem test_witness_DecodeOfEncodeIsTheOperation :
    (Instr.encode 0x1F 0xFF 15 (bytesOf 15)).WellFormed ∧ (Instr.dispatch ⟨0x7FF, bytesOf 8⟩).WellFormed ∧
    Instr.frameErase.WellFormed ∧ (Instr.frameChecksumReport 0x3F []).WellFormed := by decide
theorem test_witness_DecodedRequestIsTheEncoding :
    decode .opsel [0x01, 0x31] = .ok (.crcUpdate 0x31) ∧
    decode .canid11 [0xE1, 0x03] = .ok .frameErase ∧
    decode .canid11 [0xF1, 0x07, 0x00] = .ok (.frameAcknowledgement 0x3F []) := ⟨rfl, rfl, rfl⟩
theorem test_witness_DecodedOperationsAreWellFormed :
    decode .opsel (0x06 :: 0xFF :: 0x07 :: 0x08 :: bytesOf 8) = .ok (.dispatch ⟨0x7FF, bytesOf 8⟩) := rfl
theorem test_witness_OpselNumbersTheOperations :
    decode .opsel [0x0B, 0x00] = .ok (.setVerbose false) ∧
    (0xC ≤ (0x0C#8).toNat ∧ (0x0C#8).toNat ≤ 0xF) ∧ (0xC ≤ (0x0F#8).toNat ∧ (0x0F#8).toNat ≤ 0xF) :=
  ⟨rfl, by decide, by decide⟩

theorem test_witness_StepRunsTheDecodedOperation_command :
    (oneRequest .command (.busy (.ack .erase) .asleep) [0x00]).env.agenda = [.operation .command .opsel [0x00]] ∧
    decode .opsel [0x00] = .ok .crcInit ∧ homeAgent .crcInit = .command := ⟨rfl, rfl, rfl⟩
theorem test_witness_StepRunsTheDecodedOperation_receive :
    (oneRequest .receive (.busy (.ack .erase) .asleep) [0x05, 0x71, 0x00, 0x00]).env.agenda
      = [.operation .receive .opsel [0x05, 0x71, 0x00, 0x00]] ∧
    decode .opsel [0x05, 0x71, 0x00, 0x00] = .ok (.decode ⟨0x071, []⟩) ∧
    (∃ f, Instr.decode ⟨0x071, []⟩ = .decode f) := ⟨rfl, rfl, _, rfl⟩
theorem test_witness_StepDispatchesArrivals_fits :
    (running idleBlock .idle [.arrival (busFrame 2047 (bytesOf 8))]).env.agenda = [.arrival (busFrame 2047 (bytesOf 8))] ∧
    ReceiverStarted (running idleBlock .idle [.arrival (busFrame 2047 (bytesOf 8))]) ∧
    (busFrame 2047 (bytesOf 8)).extended = false ∧ (busFrame 2047 (bytesOf 8)).remoteRequest = false ∧
    (busFrame 2047 (bytesOf 8)).identifier < 2048 ∧ (busFrame 2047 (bytesOf 8)).data.length ≤ 8 :=
  ⟨rfl, ⟨rfl, rfl⟩, rfl, rfl, by decide, by decide⟩
theorem test_witness_StepDispatchesArrivals_outside :
    ReceiverStarted (running idleBlock .idle [.arrival (busFrame 2048 [])]) ∧ 2048 ≤ (busFrame 2048 []).identifier ∧
    8 < (busFrame 0 (bytesOf 9)).data.length ∧ (BusFrame.mk true false 0 []).extended = true ∧
    (BusFrame.mk false true 0 []).remoteRequest = true := ⟨⟨rfl, rfl⟩, by decide, by decide, rfl, rfl⟩
theorem test_witness_StepDispatchesArrivals_notStarted :
    ¬ ReceiverStarted { State.reset with env := { Env.reset with agenda := [.arrival (busFrame 0 [])] } } :=
  fun h => by cases h.1
theorem test_witness_AgentsKeepToTheirOperations_receive :
    (oneRequest .receive .idle [0x00]).env.agenda = [.operation .receive .opsel [0x00]] ∧
    decode .opsel [0x00] = .ok .crcInit ∧ ¬ ReceiveOperation .crcInit ∧ (∀ f, Instr.crcInit ≠ .decode f) :=
  ⟨rfl, rfl, by simp [ReceiveOperation], fun _ h => by cases h⟩
theorem test_witness_AgentsKeepToTheirOperations_command :
    (oneRequest .command .idle [0x06, 0x71, 0x00, 0x00]).env.agenda
      = [.operation .command .opsel [0x06, 0x71, 0x00, 0x00]] ∧
    decode .opsel [0x06, 0x71, 0x00, 0x00] = .ok (.dispatch ⟨0x071, []⟩) ∧ ReceiveOperation (.dispatch ⟨0x071, []⟩) ∧
    decode .canid11 [0x11, 0x00, 0x00] = .ok (.frameAcknowledgement 0x00 []) ∧
    ReceiveOperation (.frameAcknowledgement 0x00 []) ∧ ReceiveOperation (.frameChecksumReport 0x3F []) :=
  ⟨rfl, rfl, .inl ⟨_, rfl⟩, rfl, .inr (.inl ⟨_, _, rfl⟩), .inr (.inr ⟨_, _, rfl⟩)⟩
theorem test_witness_PlacedTableWordRunsNext :
    decodeTableWord 8 0x0B = some (.setVerbose false) ∧ decodeTableWord 16 0x7F1 = some (.frameAcknowledgement 0x3F []) :=
  by decide

theorem test_witness_CrcUpdateStepsTheRegister : (crcState 0xFFFFFFFF).block.crc = some 0xFFFFFFFF#32 := rfl
theorem test_witness_CrcReadReturnsTheComplement : (crcState 0x340BC6D9).block.crc = some 0x340BC6D9#32 := rfl
theorem test_witness_UseOfUnwrittenCrcFaults : State.reset.block.crc = none := rfl
theorem test_witness_AChangedByteChangesTheChecksum : (0xEF#8) ≠ 0xEE#8 := by decide

theorem test_witness_EncodeByItsPseudocode :
    State.reset.cfg.wideCmd = .shiftOr ∧ ¬ 0x7F < (0x7F#8).toNat ∧ 0x7F < (0x80#8).toNat ∧
    ¬ 8 < (8#4 : LenOperand).toNat ∧ 8 < (9#4 : LenOperand).toNat := ⟨rfl, by decide, by decide, by decide, by decide⟩
theorem test_witness_EncodeOfFieldCommandsUnderEverySetting :
    ((0x1F#8).toNat ≤ 0x1F ∧ (8#4 : LenOperand).toNat ≤ 8) ∧ 0x7F < (0x80#8).toNat ∧
    ((0x7F#8).toNat ≤ 0x7F ∧ 8 < (9#4 : LenOperand).toNat) := by decide
theorem test_witness_InvalidCommandExactlyAbove7F :
    0x7F < (0x80#8).toNat ∧ (0x7F#8).toNat ≤ 0x7F ∧
    (nextOf (exec (.encode 0x00 0x7F 0 []) State.reset)).isSome = true := by decide
theorem test_witness_AddressAssemblyAndDisassembly : (0x1F#8).toNat ≤ 0x1F ∧ (bytesOf 8).length ≤ 8 := by decide
theorem test_witness_WideCommandsDecodeToAnotherPair :
    State.reset.cfg.wideCmd = .shiftOr ∧ (0x20 ≤ (0x20#8).toNat ∧ (0x20#8).toNat ≤ 0x7F) ∧
    (0x20 ≤ (0x7F#8).toNat ∧ (0x7F#8).toNat ≤ 0x7F) ∧ (8#4 : LenOperand).toNat ≤ 8 :=
  ⟨rfl, by decide, by decide, by decide⟩
theorem test_witness_WideCommandsUnderTheOtherSettings :
    (wideState .anyValue).cfg.wideCmd = .anyValue ∧ (wideState .refuse).cfg.wideCmd = .refuse ∧
    (0x20 ≤ (0x20#8).toNat ∧ (0x20#8).toNat ≤ 0x7F) ∧ (8#4 : LenOperand).toNat ≤ 8 :=
  ⟨rfl, rfl, by decide, by decide⟩
theorem test_witness_DecodeAfterEncodeReturnsTheOperands :
    ((0x1F#8).toNat ≤ 0x1F ∧ (bytesOf 8).length ≤ 8) ∧ ((0x00#8).toNat ≤ 0x1F ∧ (bytesOf 0).length ≤ 8) := by decide
theorem test_witness_EncodeAfterDecodeReturnsTheFrame :
    (Frame.mk 0x3FF (bytesOf 8)).wf = true ∧ (Frame.mk 0x3FF (bytesOf 8)).addressField.getLsbD 10 = false := by decide
theorem test_witness_EncodedFramesHaveBit10Clear :
    exec (.encode 0x1F 0x7F 8 (bytesOf 8)) State.reset = .next (returns State.reset (.frame ⟨0x3FF, bytesOf 8⟩)) ∧
    (returns State.reset (.frame ⟨0x3FF, bytesOf 8⟩)).env.trace =
      State.reset.env.trace ++ [.returned State.reset.env.turn (.frame ⟨0x3FF, bytesOf 8⟩)] := ⟨rfl, rfl⟩
theorem test_witness_CodecReadsAndWritesNoElement :
    (∃ t c l p, Instr.encode 3 1 0 [] = .encode t c l p) ∧ State.reset.cfg.wideCmd = .shiftOr ∧
    (crcState 0).cfg = State.reset.cfg ∧ (crcState 0).draws = State.reset.draws :=
  ⟨⟨_, _, _, _, rfl⟩, rfl, rfl, rfl⟩

theorem test_witness_AMatchingFrameSatisfiesTheWait :
    (ackFrame.addressField.setWidth 5 = 0x11#5 ∧ ackFrame.payload = 0xFF :: [] ∧
      (slot (some .confirmation) none).block.wait = some .confirmation) ∧
    (reportFrame.addressField.setWidth 5 = 0x12#5 ∧ reportFrame.payload = 0x00 :: 0x00 :: 0x01 :: 0x00 :: [] ∧
      (slot (some .checksum) none).block.wait = some .checksum) := by decide
theorem test_witness_DispatchOutcomeTable_acknowledgement :
    (ackFrame.addressField.setWidth 5 = 0x11#5 ∧ ackFrame.payload = 0xFF :: []) ∧
    (slot (some .confirmation) none).block.wait = some .confirmation ∧
    (slot (some .checksum) none).block.wait = some .checksum ∧ State.reset.block.wait = none ∧
    ((Frame.mk 0x7F1 []).addressField.setWidth 5 = 0x11#5 ∧ (Frame.mk 0x7F1 []).payload = []) := by decide
theorem test_witness_DispatchOutcomeTable_report :
    ((Frame.mk 0x072 (bytesOf 8)).addressField.setWidth 5 = 0x12#5 ∧
      (Frame.mk 0x072 (bytesOf 8)).payload = 0xA5 :: 0xA5 :: 0xA5 :: 0xA5 :: bytesOf 4) ∧
    ((Frame.mk 0x072 (bytesOf 3)).addressField.setWidth 5 = 0x12#5 ∧ (Frame.mk 0x072 (bytesOf 3)).payload.length < 4) :=
  by decide
theorem test_witness_DispatchOutcomeTable_other :
    ((0x070#11).setWidth 5 ≠ 0x11#5 ∧ (0x070#11).setWidth 5 ≠ 0x12#5) ∧
    ((0x073#11).setWidth 5 ≠ 0x11#5 ∧ (0x073#11).setWidth 5 ≠ 0x12#5) := by decide
theorem test_witness_DispatchIgnoresTheTarget :
    SameToDispatch ⟨0x011, [0xFF]⟩ ⟨0x7F1, [0xFF]⟩ ∧
    exec (.dispatch ⟨0x011, [0xFF]⟩) State.reset = .next (outputs State.reset [.note .noWaiter ⟨0x011, [0xFF]⟩]) ∧
    exec (.dispatch ⟨0x7F1, [0xFF]⟩) State.reset = .next (outputs State.reset [.note .noWaiter ⟨0x7F1, [0xFF]⟩]) :=
  ⟨⟨by decide, rfl⟩, rfl, rfl⟩
theorem test_witness_AcknowledgementFrames :
    (slot (some .confirmation) none).block.wait = some .confirmation ∧
    (slot (some .checksum) none).block.wait = some .checksum ∧ State.reset.block.wait = none := by decide
theorem test_witness_ChecksumReportFrames :
    (slot (some .checksum) none).block.wait = some .checksum ∧
    (slot (some .confirmation) none).block.wait = some .confirmation ∧ State.reset.block.wait = none ∧
    (bytesOf 3).length < 4 ∧ (bytesOf 0).length < 4 := by decide

theorem test_witness_ArmWaitArmsAndEmptiesTheSlot :
    (slot none (some (.checksumReport 0))).block.wait = none := rfl
theorem test_witness_SecondArmFaults : (slot (some .checksum) none).block.wait = some .checksum := rfl
theorem test_witness_DeadlineAgainstDelivery :
    classify (commandOf ackFrame.addressField) ackFrame.payload = .classified (.acknowledgement true 0xFF) ∧
    (slot (some .confirmation) none).block.wait = some (Event.acknowledgement true 0xFF).kindOf ∧
    (slot (some .confirmation) none).block.evt = none := by decide
theorem test_witness_SetTargetWritesTarget :
    State.reset.cfg.wf = true ∧
    (State.resetWith ⟨none, none, .shiftOr, bytesOf 8, bytesOf 8, bytesOf 8⟩).cfg.wf = true := by decide
theorem test_witness_TheSlotHasThreeStates :
    exec .crcInit (slot (some .checksum) none) = .next ((slot (some .checksum) none).setCrc 0xFFFFFFFF#32) ∧
    ¬ TouchesSlot .crcInit ∧ SlotExclusive (slot (some .checksum) none).block :=
  ⟨rfl, by simp [TouchesSlot], .inr rfl⟩

theorem test_witness_OutboundFramesCarryTheTarget :
    (targetState 0x1F).block.target = some 0x1F ∧ (targetState 0x1F).cfg.wf = true ∧
    (Config.Params.mk none none .refuse (bytesOf 8) (bytesOf 8) (bytesOf 8)).wf = true := by decide
theorem test_witness_OutboundWithoutTargetFaults : State.reset.block.target = none := rfl

/-- A command flow asleep in the shell's `erase`, its wait armed, its answer arriving. -/
def awaiting : State :=
  running ⟨none, some 3, false, some .confirmation, none⟩ (.busy (.ack .erase) .asleep)
    [.arrival (busFrame 0x071 [0xFF]), .host .resume]

/-- A command flow woken, its answer pending. -/
def answered (job : Job) (e : Event) : State :=
  running ⟨none, some 3, false, none, some e⟩ (.busy job .woken) [.host .resume]

theorem awaiting_steps : ∃ t, step awaiting = .next t := ⟨_, rfl⟩

theorem awaiting_hostInv : HostInv awaiting := by
  refine ⟨?_, .inr rfl, trivial, ?_, ?_⟩
  · intro inv h fmt bytes
    simp only [awaiting, running, List.mem_cons, List.not_mem_nil, or_false] at h
    rcases h with rfl | rfl <;> simp
  · intro k h
    cases h
    rfl
  · intro e h
    cases h

theorem test_witness_StepKeepsTheSlotExclusive : SlotExclusive awaiting.block ∧ ∃ t, step awaiting = .next t :=
  ⟨.inr rfl, awaiting_steps⟩
theorem test_witness_StepKeepsAcknowledgementsConsistent :
    AckConsistent (answered (.ack .erase) (.acknowledgement false 0x01)).block ∧
    ∃ t, step (answered (.ack .erase) (.acknowledgement false 0x01)) = .next t := by
  refine ⟨?_, _, rfl⟩
  intro ok status h
  cases h
  rfl
theorem test_witness_ReceiveFlowOnlyDelivers :
    awaiting.env.agenda = .arrival (busFrame 0x071 [0xFF]) :: [.host .resume] ∧
    (Invocation.arrival (busFrame 0x071 [0xFF])).agent = .receive ∧ ∃ t, step awaiting = .next t :=
  ⟨rfl, rfl, awaiting_steps⟩
theorem test_witness_StepKeepsParametersAndAppendsOutputs : ∃ t, step awaiting = .next t := awaiting_steps

/-- A command flow at a stage, with a slot and TARGET 3. -/
def atStage (job : Job) (stage : Stage) (wait : Option Kind) (evt : Option Event) : State :=
  running ⟨none, some 3, false, wait, evt⟩ (.busy job stage) [.host .resume]

theorem test_witness_AwaitEndsWithItsAnswerOrItsDeadline_entries :
    awaiting.env.flow ≠ .idle ∧ (atStage (.ack .erase) .woken none none).env.agenda = [.host .resume] ∧
    (atStage (.ack .erase) .woken none none).env.flow ≠ .idle ∧
    (running idleBlock .idle [.host .deadline]).env.agenda = [.host .deadline] := by decide
theorem test_witness_AwaitEndsWithItsAnswerOrItsDeadline_arm :
    ((atStage (.ack .erase) .arm none none).env.flow = .busy (.ack .erase) .arm ∧
      (atStage (.ack .erase) .arm none none).block.wait = none) ∧
    (atStage (.sum .query) .arm none none).env.flow = .busy (.sum .query) .arm ∧
    (atStage (.ack .erase) .arm (some .checksum) none).block.wait ≠ none := by decide
theorem test_witness_AwaitEndsWithItsAnswerOrItsDeadline_send :
    (atStage (.ack .erase) .send (some .confirmation) none).env.flow = .busy (.ack .erase) .send ∧
    (atStage (.ack .erase) .send (some .confirmation) none).block.target = some 3 ∧
    (atStage (.ack .erase) .send (some .confirmation) none).cfg.wf = true ∧
    (running idleBlock (.busy (.ack .erase) .send) []).block.target = none := by decide
theorem test_witness_AwaitEndsWithItsAnswerOrItsDeadline_asleep :
    awaiting.env.flow = .busy (.ack .erase) .asleep := by decide
theorem test_witness_AwaitEndsWithItsAnswerOrItsDeadline_answers :
    ((answered (.ack .erase) (.acknowledgement true 0xFF)).env.flow = .busy (.ack .erase) .woken ∧
      (answered (.ack .erase) (.acknowledgement true 0xFF)).block.evt = some (.acknowledgement true 0xFF)) ∧
    ((atStage (.ack .erase) .late none (some (.acknowledgement false 0x01))).env.flow = .busy (.ack .erase) .late ∧
      (atStage (.ack .erase) .late none (some (.acknowledgement false 0x01))).block.evt
        = some (.acknowledgement false 0x01)) ∧
    ((answered (.sum .query) (.checksumReport 0x100)).env.flow = .busy (.sum .query) .woken ∧
      (answered (.sum .query) (.checksumReport 0x100)).block.evt = some (.checksumReport 0x100)) := by decide
theorem test_witness_AwaitEndsWithItsAnswerOrItsDeadline_without :
    ((atStage (.sum .query) .woken (some .checksum) none).env.flow = .busy (.sum .query) .woken ∧
      ∀ e, (atStage (.sum .query) .woken (some .checksum) none).block.evt = some e → e.kindOf ≠ (Job.sum .query).kind) ∧
    ((atStage (.ack .erase) .late none (some (.checksumReport 0))).env.flow = .busy (.ack .erase) .late ∧
      ∀ e, (atStage (.ack .erase) .late none (some (.checksumReport 0))).block.evt = some e →
        e.kindOf ≠ (Job.ack .erase).kind) :=
  ⟨⟨rfl, fun _ h => by cases h⟩, rfl, fun _ h => by cases h; decide⟩
theorem test_witness_AwaitEndsWithItsAnswerOrItsDeadline_cancelling :
    (atStage (.ack .erase) .cancelling (some .confirmation) none).env.flow = .busy (.ack .erase) .cancelling := by decide
theorem test_witness_AwaitEndsWithItsAnswerOrItsDeadline_deadline :
    (awaiting.env.flow = .busy (.ack .erase) .asleep ∧ awaiting.block.wait ≠ none) ∧
    ((atStage (.ack (.upload [0x01] 0 (.writing 0))) .woken (some .confirmation) none).env.flow
        = .busy (.ack (.upload [0x01] 0 (.writing 0))) .woken ∧
      (atStage (.ack (.upload [0x01] 0 (.writing 0))) .woken (some .confirmation) none).block.wait ≠ none) ∧
    ((answered (.ack .erase) (.acknowledgement true 0xFF)).env.flow = .busy (.ack .erase) .woken ∧
      (answered (.ack .erase) (.acknowledgement true 0xFF)).block.wait = none) := by decide
-- R213: the second chunk times out; one written, one failed
theorem test_deadline_writeData :
    (nextOf (deadlineFlow (atStage (.ack (.upload (bytesOf 8) 0 (.writing 1))) .asleep (some .confirmation) none))).map
      (·.env.trace) = some [.returned .command (.wasArmed true), .chunkCounts 1 1, .finished (.failed .protocolTimeout)] :=
  by decide
theorem test_witness_UploadFollowsItsSequence_acknowledged :
    ((atStage (.ack (.upload (bytesOf 5) 0 (.writing 1))) .woken none (some (.acknowledgement true 0xFF))).env.flow
        = .busy (.ack (.upload (bytesOf 5) 0 (.writing 1))) .woken ∧
      (atStage (.ack (.upload (bytesOf 5) 0 (.writing 1))) .woken none (some (.acknowledgement true 0xFF))).block.evt
        = some (.acknowledgement true 0xFF)) ∧
    ((atStage (.ack (.upload [] 0 .beginWrite)) .late none (some (.acknowledgement false 0x00))).env.flow
        = .busy (.ack (.upload [] 0 .beginWrite)) .late ∧
      (atStage (.ack (.upload [] 0 .beginWrite)) .late none (some (.acknowledgement false 0x00))).block.evt
        = some (.acknowledgement false 0x00)) := by decide
theorem test_witness_UploadFollowsItsSequence_verified :
    ((atStage (.sum (.verify 0x100)) .woken none (some (.checksumReport 0x100))).env.flow
        = .busy (.sum (.verify 0x100)) .woken ∧
      (atStage (.sum (.verify 0x100)) .woken none (some (.checksumReport 0x100))).block.evt
        = some (.checksumReport 0x100)) ∧
    (atStage (.sum (.verify 0x100)) .late none (some (.checksumReport 0x101))).env.flow
        = .busy (.sum (.verify 0x100)) .late := by decide
-- R210, R213: after the last chunk of a 5-byte image comes End-Write, and 5 bytes are reported consumed
theorem test_upload_lastChunk :
    (nextOf (resumeFlow (atStage (.ack (.upload (bytesOf 5) 0 (.writing 1))) .woken none
      (some (.acknowledgement true 0xFF))))).map (fun t => (t.env.flow, t.env.trace.drop 1))
      = some (.busy (.ack (.upload (bytesOf 5) 0 .endWrite)) .arm, [.progress 5]) := by decide

theorem test_witness_StepKeepsTheHostDiscipline : HostInv awaiting ∧ ∃ t, step awaiting = .next t :=
  ⟨awaiting_hostInv, awaiting_steps⟩
theorem test_witness_HostDisciplineHoldsAtReset :
    ShellOnly [.host .onReceive, .host .startReceiving, .host (.call .erase), .arrival (busFrame 0x071 [0xFF])] := by
  intro inv h fmt bytes
  simp only [List.mem_cons, List.not_mem_nil, or_false] at h
  rcases h with rfl | rfl | rfl | rfl <;> simp
theorem test_witness_HostNeverArmsTwice : HostInv awaiting := awaiting_hostInv

end Sys2Proof.Tests
end

section
/-! PROOFS. The delivery of a classified frame into the wait slot (42_dispatcher.md R152, R153, R156). -/

namespace Sys2Proof.Machine

open Sys2Proof.Safety

/-! Fields and values of an inbound frame -/

/-- The command field is the low five bits of the address (R81, R135). -/
theorem commandOf_eq_setWidth (a : Addr11) : commandOf a = a.setWidth 5 :=
  (BitVec.setWidth_eq_extractLsb' (by decide)).symm

/-- The shift-OR of R54 is the concatenation of the four bytes. -/
theorem bigEndian_eq_append (p0 p1 p2 p3 : Byte) : bigEndian p0 p1 p2 p3 = p0 ++ p1 ++ p2 ++ p3 := by
  have h := BitVec.setWidth_append_append_append_eq_shiftLeft_setWidth_or (w'''' := 32)
    (b := p0) (b' := p1) (b'' := p2) (b''' := p3)
  rw [BitVec.setWidth_eq] at h
  exact h.symm

/-- The value of a concatenation is the high part at its place plus the low part. -/
theorem toNat_append_eq_add {m n : Nat} (x : BitVec m) (y : BitVec n) :
    (x ++ y).toNat = x.toNat * 2 ^ n + y.toNat := by
  rw [BitVec.toNat_append, ← Nat.shiftLeft_add_eq_or_of_lt y.isLt, Nat.shiftLeft_eq]

/-- The value of R54 by place values. -/
theorem toNat_bigEndian (p0 p1 p2 p3 : Byte) :
    (bigEndian p0 p1 p2 p3).toNat = p0.toNat * 2 ^ 24 + p1.toNat * 2 ^ 16 + p2.toNat * 2 ^ 8 + p3.toNat := by
  rw [bigEndian_eq_append]
  simp only [toNat_append_eq_add]
  omega

/-! DISPATCH of a frame that classifies -/

/-- DISPATCH of a frame that classifies is the delivery of its event (R151). -/
theorem exec_dispatch_of_classified {f : Frame} {e : Event}
    (hc : classify (commandOf f.addressField) f.payload = .classified e) (s : State) :
    exec (.dispatch f) s = .next (deliver e f s) := by
  simp only [exec, execDispatch, dispatchFrame, hc]

/-- An event of the armed kind takes the slot, clears the wait and wakes, and nothing else changes (R156). -/
theorem deliver_of_wait_eq {s : State} {e : Event} (hw : s.block.wait = some e.kindOf) (f : Frame) :
    deliver e f s = wakes (withBlock s { s.block with wait := none, evt := some e }) [.wake] := by
  simp only [deliver, hw, if_true]
  rfl

/-- An acknowledgement frame with a status byte classifies as that status (R153). -/
theorem classify_of_ack {f : Frame} {p0 : Byte} {rest : List Byte} (ha : f.addressField.setWidth 5 = 0x11#5)
    (hp : f.payload = p0 :: rest) :
    classify (commandOf f.addressField) f.payload = .classified (.acknowledgement (p0 == 0xFF#8) p0) := by
  rw [commandOf_eq_setWidth, ha, hp]
  exact classify_ack p0 rest

/-- A report frame of at least four bytes classifies as the value of its first four (R152). -/
theorem classify_of_report {f : Frame} {p0 p1 p2 p3 : Byte} {rest : List Byte}
    (ha : f.addressField.setWidth 5 = 0x12#5) (hp : f.payload = p0 :: p1 :: p2 :: p3 :: rest) :
    classify (commandOf f.addressField) f.payload = .classified (.checksumReport (bigEndian p0 p1 p2 p3)) := by
  rw [commandOf_eq_setWidth, ha, hp]
  exact classify_report p0 p1 p2 p3 rest

/-- Settles O34: both frames classify, and an event of the armed kind is delivered. -/
theorem aMatchingFrameSatisfiesTheWait : Obligations.AMatchingFrameSatisfiesTheWait := by
  intro s f
  constructor
  · intro p0 rest ha hp hw
    rw [exec_dispatch_of_classified (classify_of_ack ha hp), deliver_of_wait_eq hw]
  · intro p0 p1 p2 p3 rest ha hp hw
    refine ⟨bigEndian p0 p1 p2 p3, toNat_bigEndian p0 p1 p2 p3, ?_⟩
    rw [exec_dispatch_of_classified (classify_of_report ha hp), deliver_of_wait_eq hw]

end Sys2Proof.Machine
end

section
/-! PROOFS. The address ENCODE assembles and the fields DECODE gives back (30_encoding.md R88, 41_frame_codec.md R131,
R135). -/

namespace Sys2Proof.Machine

open Sys2Proof.Safety

/-! The assembled address -/

/-- The shift of a 5-bit target into an 11-bit address loses no bit, so R131 reads the same on numbers. -/
theorem toNat_shiftOrAddress (t : TargetId) (c : Byte) :
    (shiftOrAddress t c).toNat = (t.toNat <<< 5) ||| c.toNat := by
  have hshift : (t.setWidth 11 <<< 5 : Addr11).toNat = t.toNat <<< 5 := by
    rw [BitVec.toNat_shiftLeft, BitVec.toNat_setWidth_of_le (by decide), Nat.shiftLeft_eq]
    omega
  rw [shiftOrAddress, BitVec.toNat_or, hshift, BitVec.toNat_setWidth_of_le (by decide)]

/-- Bit 10 of an assembled address is zero, whatever the command (R88). -/
theorem toNat_shiftOrAddress_le (t : TargetId) (c : Byte) : (shiftOrAddress t c).toNat ≤ 0x3FF := by
  have htarget : t.toNat <<< 5 < 2 ^ 10 := by
    rw [Nat.shiftLeft_eq]
    omega
  have hcommand : c.toNat < 2 ^ 10 := by omega
  rw [toNat_shiftOrAddress]
  exact Nat.le_of_lt_succ (Nat.or_lt_two_pow htarget hcommand)

/-! The two operations -/

/-- A payload of at most 8 bytes has its length named exactly by the operand `len` (R97). -/
theorem toNat_ofNat_length {payload : List Byte} (h : payload.length ≤ 8) :
    (BitVec.ofNat 4 payload.length : LenOperand).toNat = payload.length := by
  rw [BitVec.toNat_ofNat]
  omega

/-- ENCODE of a command that fits its field builds the shift-OR address under every setting, and draws nothing. -/
theorem exec_encode_of_fits {c : Byte} {len : LenOperand} (hc : c.toNat ≤ 0x1F) (hl : len.toNat ≤ 8) (s : State)
    (t : TargetId) (payload : List Byte) :
    exec (.encode t c len payload) s =
      .next (returns s (.frame ⟨shiftOrAddress t c, payload.take len.toNat⟩)) := by
  have hbuilt : s.encodeFrame t c len payload = .built ⟨shiftOrAddress t c, payload.take len.toNat⟩ := by
    rw [State.encodeFrame, encodeFrame_of_le (by omega) hl]
    simp [encodeAddress, isWide_of_le hc]
  have hdraw : s.afterEncode c = s := by simp [State.afterEncode, isWide_of_le hc]
  simp only [exec, execEncode, hbuilt, hdraw, answer_eq_returns]

/-- DECODE returns the two fields of the address and the payload, in every state (R135). -/
theorem exec_decode (f : Frame) (s : State) :
    exec (.decode f) s =
      .next (returns s (.fields (targetOf f.addressField) (commandOf f.addressField) f.payload)) := rfl

/-- Settles O26: the shift-OR address of a fitting command is the layout; DECODE takes it apart at bit 5. -/
theorem addressAssemblyAndDisassembly : Obligations.AddressAssemblyAndDisassembly := by
  constructor
  · intro s t c payload hc hp
    exact ⟨_, exec_encode_of_fits hc ((toNat_ofNat_length hp).trans_le hp) s t payload,
      shiftOrAddress_field t hc, toNat_shiftOrAddress t c, toNat_shiftOrAddress_le t c⟩
  · exact fun s f => exec_decode f s

end Sys2Proof.Machine
end

section
/-! PROOFS. The CRC operations one after the other, and CHECKSUM as their sequence (40_crc_engine.md R112 to R115). -/

namespace Sys2Proof.Machine

open Sys2Proof.Safety

/-! The register, and what each operation answers when it is written -/

/-- A second write of CRC replaces the first. -/
@[simp] theorem State.setCrc_setCrc (s : State) (v w : Word32) : (s.setCrc v).setCrc w = s.setCrc w := rfl

theorem setCrc_eq_withBlock (s : State) (v : Word32) : s.setCrc v = withBlock s { s.block with crc := some v } := rfl

/-- The register a CHECKSUM leaves is the complement of its result (R110). -/
theorem complement_checksumOf (bytes : List Byte) : ~~~ checksumOf bytes = crcRun Config.crcInitVal bytes :=
  BitVec.not_not

theorem exec_crcInit (s : State) : exec .crcInit s = .next (s.setCrc Config.crcInitVal) := rfl

theorem exec_checksum (bytes : List Byte) (s : State) :
    exec (.checksum bytes) s =
      .next ((s.setCrc (crcRun Config.crcInitVal bytes)).answer (.word (checksumOf bytes))) := rfl

/-- CRC_UPDATE of a written register steps it (R113). -/
theorem exec_crcUpdate_of_crc_eq {s : State} {r : Word32} (h : s.block.crc = some r) (b : Byte) :
    exec (.crcUpdate b) s = .next (s.setCrc (crcStep r b)) := by
  simp only [exec, execCrcUpdate, h]

/-- CRC_READ of a written register returns its complement and keeps it (R114). -/
theorem exec_crcRead_of_crc_eq {s : State} {r : Word32} (h : s.block.crc = some r) :
    exec .crcRead s = .next (s.answer (.word (~~~ r))) := by
  simp only [exec, execCrcRead, h]

/-! Sequences of operations -/

@[simp] theorem execAll_nil (s : State) : execAll [] s = .next s := rfl

@[simp] theorem execAll_cons (i : Instr) (rest : List Instr) (s : State) :
    execAll (i :: rest) s = andThen (exec i s) (execAll rest) := rfl

/-- CRC_UPDATE of each byte in order, from a written register, runs the register over the bytes; what follows starts
from there (R113, R116). -/
theorem execAll_map_crcUpdate_append (bytes : List Byte) (rest : List Instr) (s : State) (r : Word32) :
    execAll (bytes.map .crcUpdate ++ rest) (s.setCrc r) = execAll rest (s.setCrc (crcRun r bytes)) := by
  induction bytes generalizing r with
  | nil => rfl
  | cons b bytes ih =>
    rw [List.map_cons, List.cons_append, execAll_cons, exec_crcUpdate_of_crc_eq (s := s.setCrc r) rfl b,
      andThen_next, State.setCrc_setCrc]
    exact ih (crcStep r b)

/-- CRC_UPDATE of each byte, then CRC_READ, from a written register: the register runs over the bytes and its complement
is returned (R114). -/
theorem execAll_map_crcUpdate_crcRead (bytes : List Byte) (s : State) (r : Word32) :
    execAll (bytes.map .crcUpdate ++ [.crcRead]) (s.setCrc r) =
      .next ((s.setCrc (crcRun r bytes)).answer (.word (~~~ crcRun r bytes))) := by
  rw [execAll_map_crcUpdate_append, execAll_cons, exec_crcRead_of_crc_eq (s := s.setCrc (crcRun r bytes)) rfl,
    andThen_next, execAll_nil]

/-! The statements -/

/-- Settles O18: after CRC_INIT the register is written, and the updates run it over the bytes, as CHECKSUM does. -/
theorem checksumIsItsPrimitives : Obligations.ChecksumIsItsPrimitives := by
  intro s bytes
  calc execAll (.crcInit :: (bytes.map .crcUpdate ++ [.crcRead])) s
      = execAll (bytes.map .crcUpdate ++ [.crcRead]) (s.setCrc Config.crcInitVal) := by
        rw [execAll_cons, exec_crcInit, andThen_next]
    _ = .next ((s.setCrc (crcRun Config.crcInitVal bytes)).answer (.word (~~~ crcRun Config.crcInitVal bytes))) :=
        execAll_map_crcUpdate_crcRead bytes s _
    _ = exec (.checksum bytes) s := (exec_checksum bytes s).symm

/-- Settles O12: CRC_INIT is one write of CRC, of the value of R8. -/
theorem crcInitWritesTheInitialRegister : Obligations.CrcInitWritesTheInitialRegister := by
  intro s
  rw [exec_crcInit, setCrc_eq_withBlock, Config.crcInitVal]

/-- Settles O17: the register CHECKSUM leaves is the complement of what it returns. -/
theorem checksumReturnsAndLeavesTheRegister : Obligations.ChecksumReturnsAndLeavesTheRegister := by
  intro s bytes
  rw [exec_checksum, complement_checksumOf, answer_eq_returns, setCrc_eq_withBlock]

end Sys2Proof.Machine
end

section
/-! PROOFS. When ENCODE reports InvalidCommand, and the fields of DECODE by division (41_frame_codec.md R131, R133, R135,
R136). -/

namespace Sys2Proof.Machine

open Sys2Proof.Safety

/-! The command check of ENCODE -/

/-- The command check is the only way to InvalidCommand, under every setting, draw and length (R131, R133). -/
theorem State.encodeFrame_eq_invalidCommand_iff {s : State} {t : TargetId} {c : Byte} {len : LenOperand}
    {payload : List Byte} : s.encodeFrame t c len payload = .invalidCommand ↔ 0x7F < c.toNat := by
  have hmax : Config.cmdLegalMax < c ↔ 0x7F < c.toNat := BitVec.lt_def
  rw [← hmax, State.encodeFrame, Machine.encodeFrame]
  by_cases hc : Config.cmdLegalMax < c
  · simp only [hc, if_true]
  · simp only [hc, if_false, iff_false]
    split
    · exact EncodeOutcome.noConfusion
    · cases encodeAddress s.cfg.wideCmd (Config.freeWideBits s.draws) t c <;> exact EncodeOutcome.noConfusion

/-- ENCODE of a command above 0x7F returns InvalidCommand, and nothing else changes (R133). -/
theorem exec_encode_of_gt {c : Byte} (hc : 0x7F < c.toNat) (s : State) (t : TargetId) (len : LenOperand)
    (payload : List Byte) : exec (.encode t c len payload) s = .next (returns s (.invalidCommand c)) := by
  simp only [exec, execEncode, State.encodeFrame_eq_invalidCommand_iff.mpr hc, raise, answer_eq_returns]

/-- Whatever ENCODE of a command up to 0x7F returns is a frame or InvalidLength; it may use a draw. -/
theorem exec_encode_cases_of_le {t : TargetId} {c : Byte} {len : LenOperand} {payload : List Byte} {s u : State}
    (hc : c.toNat ≤ 0x7F) (h : exec (.encode t c len payload) s = .next u) :
    ∃ r n, u = { (returns s r) with draws := n } ∧ (r = .invalidLength len ∨ ∃ f, r = .frame f) := by
  obtain ⟨n, hdraw⟩ := afterEncode_eq s c
  simp only [exec, execEncode] at h
  cases hout : s.encodeFrame t c len payload with
  | invalidCommand => exact absurd (State.encodeFrame_eq_invalidCommand_iff.mp hout) (Nat.not_lt.mpr hc)
  | invalidLength =>
    rw [hout] at h
    cases h
    exact ⟨_, s.draws, rfl, .inl rfl⟩
  | wideRefused =>
    rw [hout] at h
    cases h
  | built f =>
    rw [hout, hdraw] at h
    cases h
    exact ⟨_, n, rfl, .inr ⟨f, rfl⟩⟩

/-! The fields of an address -/

/-- The target field is the address divided by 32 (R135). -/
theorem targetOf_eq_ofNat_div (a : Addr11) : targetOf a = BitVec.ofNat 6 (a.toNat / 32) := by
  rw [targetOf, BitVec.extractLsb', Nat.shiftRight_eq_div_pow]

/-- The command field is the remainder of the address by 32 (R135). -/
theorem commandOf_eq_ofNat_mod (a : Addr11) : commandOf a = BitVec.ofNat 5 (a.toNat % 32) := by
  apply BitVec.eq_of_toNat_eq
  rw [commandOf_eq_setWidth, BitVec.toNat_setWidth, BitVec.toNat_ofNat, Nat.mod_mod]

/-! The statements -/

/-- Settles O25: the command check comes first, and a result past it is a frame or InvalidLength. -/
theorem invalidCommandExactlyAbove7F : Obligations.InvalidCommandExactlyAbove7F := by
  intro s target command len payload
  refine ⟨fun hc => exec_encode_of_gt hc s target len payload, fun hc u c h htrace => ?_⟩
  obtain ⟨r, n, rfl, hr⟩ := exec_encode_cases_of_le hc h
  have hresult : r = .invalidCommand c := by simpa [returns, outputs] using htrace
  rcases hr with rfl | ⟨f, rfl⟩ <;> cases hresult

/-- Settles O29: the fields DECODE returns are the quotient and the remainder of the address by 32. -/
theorem decodeSplitsTheAddress : Obligations.DecodeSplitsTheAddress := by
  intro s f
  rw [exec_decode, targetOf_eq_ofNat_div, commandOf_eq_ofNat_mod]

end Sys2Proof.Machine
end

section
/-! PROOFS. DISPATCH is enabled in every state, for every frame (42_dispatcher.md R151, R159). -/

namespace Sys2Proof.Machine

/-- DISPATCH is one atomic step, of the state alone (R151). -/
theorem exec_dispatch (f : Frame) (s : State) : exec (.dispatch f) s = .next (dispatchFrame f s) := rfl

/-- Settles O36: the next state is the one `dispatchFrame` computes, which has no failing outcome. -/
theorem dispatchAlwaysHasAStep : Obligations.DispatchAlwaysHasAStep := by
  intro s f
  exact ⟨dispatchFrame f s, exec_dispatch f s⟩

end Sys2Proof.Machine
end

section
/-! PROOFS. TAKE_EVENT empties EVT, and SET_VERBOSE writes VERBOSE (43_wait_and_config.md R185, R186, R189). -/

namespace Sys2Proof.Machine

open Sys2Proof.Safety

theorem setEvt_eq_withBlock (s : State) (v : Option Event) : s.setEvt v = withBlock s { s.block with evt := v } := rfl

theorem setVerbose_eq_withBlock (s : State) (v : Bool) :
    s.setVerbose v = withBlock s { s.block with verbose := v } := rfl

/-- A write of EVT with what it holds changes nothing. -/
theorem State.setEvt_eq_self {s : State} {v : Option Event} (h : s.block.evt = v) : s.setEvt v = s := by
  subst h
  rfl

theorem exec_setVerbose (flag : Bool) (s : State) : exec (.setVerbose flag) s = .next (s.setVerbose flag) := rfl

theorem exec_takeEvent (s : State) : exec .takeEvent s = .next ((s.setEvt none).answer (.event s.block.evt)) := rfl

/-- TAKE_EVENT with nothing to take returns none, and nothing else changes (R186). -/
theorem exec_takeEvent_of_evt_eq_none {s : State} (h : s.block.evt = none) :
    exec .takeEvent s = .next (returns s (.event none)) := by
  rw [exec_takeEvent, State.setEvt_eq_self h, h, answer_eq_returns]

/-- Settles O43: the first take leaves EVT empty, so the second finds nothing to take. -/
theorem takeEventConsumesOnce : Obligations.TakeEventConsumesOnce := by
  intro s
  have hfirst : exec .takeEvent s =
      .next (returns (withBlock s { s.block with evt := none }) (.event s.block.evt)) := by
    rw [exec_takeEvent, setEvt_eq_withBlock, answer_eq_returns]
  have hempty : (returns (withBlock s { s.block with evt := none }) (.event s.block.evt)).block.evt = none := rfl
  refine ⟨hfirst, ?_⟩
  rw [execAll_cons, hfirst, andThen_next, execAll_cons, exec_takeEvent_of_evt_eq_none hempty, andThen_next, execAll_nil]

/-- Settles O46: SET_VERBOSE is one write of VERBOSE. -/
theorem setVerboseWritesVerbose : Obligations.SetVerboseWritesVerbose := by
  intro s flag
  rw [exec_setVerbose, setVerbose_eq_withBlock]

end Sys2Proof.Machine
end

section
/-! PROOFS. The decoder against the encoder, both ways: every well-formed operation is read back from its bytes, and bytes
that decode are those of a well-formed operation (30_encoding.md R81, R84, R85, R96, R97). -/

namespace Sys2Proof.Decode

open Sys2Proof.Safety

/-! Bytes to operation: what each operand reader accepts -/

/-- What ENCODE's operands decode to has a payload of `len` bytes, and the bytes are its own (R97). -/
theorem encodeOperands_eq_ok {bytes : List Byte} {i : Instr} (h : encodeOperands bytes = .ok i) :
    ∃ (t : TargetId) (c : Byte) (n : LenOperand) (p : List Byte), i = .encode t c n p ∧ p.length = n.toNat ∧
      t.setWidth 8 :: c :: n.setWidth 8 :: p = bytes := by
  unfold encodeOperands at h
  split at h
  · rename_i t c n p
    split at h
    · cases h
    split at h
    · cases h
    rename_i ht hn
    obtain ⟨hlen, rfl⟩ := counted_eq_ok h
    have htarget : (t.setWidth 5).setWidth 8 = t := by bv_omega
    have hcount : (n.setWidth 4).setWidth 8 = n := by bv_omega
    refine ⟨_, c, _, p, rfl, ?_, by rw [htarget, hcount]⟩
    rw [hlen, BitVec.toNat_setWidth, Nat.mod_eq_of_lt (by omega)]
  · cases h

theorem kindOperand_eq_ok {b : Byte} {i : Instr} (h : kindOperand b = .ok i) :
    ∃ k, i = .armWait k ∧ Encode.kind k = b := by
  unfold kindOperand at h
  split at h
  · rename_i hb; cases h; exact ⟨_, rfl, hb.symm⟩
  split at h
  · rename_i hb; cases h; exact ⟨_, rfl, hb.symm⟩
  · cases h

theorem targetOperand_eq_ok {b : Byte} {i : Instr} (h : targetOperand b = .ok i) :
    ∃ t : TargetId, i = .setTarget t ∧ t.setWidth 8 = b := by
  unfold targetOperand at h
  split at h
  · cases h
  · cases h
    exact ⟨_, rfl, by bv_omega⟩

theorem flagOperand_eq_ok {b : Byte} {i : Instr} (h : flagOperand b = .ok i) :
    ∃ flag, i = .setVerbose flag ∧ Encode.flag flag = b := by
  unfold flagOperand at h
  split at h
  · rename_i hb; cases h; exact ⟨_, rfl, hb.symm⟩
  split at h
  · rename_i hb; cases h; exact ⟨_, rfl, hb.symm⟩
  · cases h

theorem fourBytes_eq_ok {bytes : List Byte} {i : Instr} (h : fourBytes bytes = .ok i) :
    ∃ b0 b1 b2 b3, i = .frameWriteData b0 b1 b2 b3 ∧ bytes = [b0, b1, b2, b3] := by
  unfold fourBytes at h
  split at h
  · cases h; exact ⟨_, _, _, _, rfl, rfl⟩
  · cases h
  · cases h

/-! Bytes to operation: the two formats -/

/-- What an OPSEL request that decodes stands for: a well-formed operation whose number is the first byte and whose bytes
are the request (R96, R97). -/
theorem opsel_eq_ok {code : Byte} {operands : List Byte} {i : Instr} (h : opsel (code :: operands) = .ok i) :
    i.format = .opsel ∧ i.WellFormed ∧ opselOf i = some code.toNat ∧ ∀ t, encodeWith t i = code :: operands := by
  have hcode : code = BitVec.ofNat 8 code.toNat := by rw [BitVec.ofNat_toNat, BitVec.setWidth_eq]
  unfold opsel at h
  simp only at h
  split at h
  case h_13 => split at h <;> cases h
  all_goals rename_i hn; rw [hn] at hcode ⊢; subst hcode
  · obtain ⟨rfl, rfl⟩ := noOperand_eq_ok h; exact ⟨rfl, rfl, rfl, fun _ => rfl⟩
  · obtain ⟨b, rfl, hb⟩ := oneByte_eq_ok h; cases hb; exact ⟨rfl, rfl, rfl, fun _ => rfl⟩
  · obtain ⟨rfl, rfl⟩ := noOperand_eq_ok h; exact ⟨rfl, rfl, rfl, fun _ => rfl⟩
  · cases h; exact ⟨rfl, rfl, rfl, fun _ => rfl⟩
  · obtain ⟨t, c, n, p, rfl, hp, rfl⟩ := encodeOperands_eq_ok h
    exact ⟨rfl, beq_iff_eq.mpr hp, rfl, fun _ => rfl⟩
  · obtain ⟨f, hf, rfl, rfl⟩ := frameOperand_eq_ok h; exact ⟨rfl, hf, rfl, fun _ => rfl⟩
  · obtain ⟨f, hf, rfl, rfl⟩ := frameOperand_eq_ok h; exact ⟨rfl, hf, rfl, fun _ => rfl⟩
  · obtain ⟨b, rfl, hb⟩ := oneByte_eq_ok h
    obtain ⟨k, rfl, rfl⟩ := kindOperand_eq_ok hb; exact ⟨rfl, rfl, rfl, fun _ => rfl⟩
  · obtain ⟨rfl, rfl⟩ := noOperand_eq_ok h; exact ⟨rfl, rfl, rfl, fun _ => rfl⟩
  · obtain ⟨rfl, rfl⟩ := noOperand_eq_ok h; exact ⟨rfl, rfl, rfl, fun _ => rfl⟩
  · obtain ⟨b, rfl, hb⟩ := oneByte_eq_ok h
    obtain ⟨t, rfl, rfl⟩ := targetOperand_eq_ok hb; exact ⟨rfl, rfl, rfl, fun _ => rfl⟩
  · obtain ⟨b, rfl, hb⟩ := oneByte_eq_ok h
    obtain ⟨flag, rfl, rfl⟩ := flagOperand_eq_ok hb; exact ⟨rfl, rfl, rfl, fun _ => rfl⟩

/-- What an OPSEL code from 0xC to 0xF is: reserved (R96). -/
theorem opsel_of_reserved {code : Byte} (h : 0xC ≤ code.toNat) (h' : code.toNat ≤ 0xF) (operands : List Byte) :
    opsel (code :: operands) = .error (.reservedOpsel code.toNat) := by
  have hcode : code = 0x0C#8 ∨ code = 0x0D#8 ∨ code = 0x0E#8 ∨ code = 0x0F#8 := by bv_omega
  rcases hcode with rfl | rfl | rfl | rfl <;> rfl

/-- What follows an address that matches a row: accepted, it makes a well-formed frame command whose bytes are the address
and the rest, the address being put together again from its fields (R81, R85). -/
theorem frameRest_eq_ok {a : Addr11} {r : FrameRow} {rest : List Byte} {i : Instr} (hr : frameRow a = some r)
    (h : frameRest a r.command rest = .ok i) :
    i.format = .canid11 ∧ i.WellFormed ∧ ∃ t, encodeWith t i = addressLo a :: addressHi a :: rest := by
  unfold frameRest at h
  rcases frameRow_cases a r hr with ⟨hc, ha⟩ | ⟨hc, ha⟩ | ⟨hc, ha⟩ | ⟨hc, ha⟩ | ⟨hc, ha⟩ | ⟨hc, ha⟩ | ⟨hc, ha⟩ <;>
    simp only [hc] at h
  · obtain ⟨rfl, rfl⟩ := noOperand_eq_ok h
    exact ⟨rfl, rfl, a.extractLsb' 5 5, by rw [encodeWith, Encode.outbound, ← ha]⟩
  · obtain ⟨rfl, rfl⟩ := noOperand_eq_ok h
    exact ⟨rfl, rfl, a.extractLsb' 5 5, by rw [encodeWith, Encode.outbound, ← ha]⟩
  · obtain ⟨b0, b1, b2, b3, rfl, rfl⟩ := fourBytes_eq_ok h
    exact ⟨rfl, rfl, a.extractLsb' 5 5, by rw [encodeWith, Encode.outbound, ← ha]; rfl⟩
  · obtain ⟨rfl, rfl⟩ := noOperand_eq_ok h
    exact ⟨rfl, rfl, a.extractLsb' 5 5, by rw [encodeWith, Encode.outbound, ← ha]⟩
  · obtain ⟨rfl, rfl⟩ := noOperand_eq_ok h
    exact ⟨rfl, rfl, a.extractLsb' 5 5, by rw [encodeWith, Encode.outbound, ← ha]⟩
  · obtain ⟨p, hp, rfl, rfl⟩ := framePayload_eq_ok h
    exact ⟨rfl, decide_eq_true hp, 0#5, by rw [encodeWith, Encode.inbound, ← ha]; rfl⟩
  · obtain ⟨p, hp, rfl, rfl⟩ := framePayload_eq_ok h
    exact ⟨rfl, decide_eq_true hp, 0#5, by rw [encodeWith, Encode.inbound, ← ha]; rfl⟩

/-- What a CANID11 request that decodes stands for: a well-formed frame command whose bytes are the request, for some target
bits of an outbound row (R81, R85). -/
theorem canid11_eq_ok {bytes : List Byte} {i : Instr} (h : canid11 bytes = .ok i) :
    i.format = .canid11 ∧ i.WellFormed ∧ ∃ t, encodeWith t i = bytes := by
  unfold canid11 at h
  split at h
  · rename_i lo hi rest
    split at h
    · cases h
    rename_i hhi
    obtain ⟨hlo', hhi'⟩ := bytes_of_address (lo := lo) (hi := hi) (by omega)
    split at h
    · cases h
    rename_i r hr
    have hrest := frameRest_eq_ok hr h
    rwa [hlo', hhi'] at hrest
  · cases h

/-- What a request that decodes stands for, in either format. -/
theorem decode_eq_ok {fmt : Format} {bytes : List Byte} {i : Instr} (h : decode fmt bytes = .ok i) :
    i.format = fmt ∧ i.WellFormed ∧ ∃ t, encodeWith t i = bytes := by
  cases fmt with
  | opsel =>
    cases bytes with
    | nil => cases h
    | cons code operands =>
      obtain ⟨hfmt, hwf, -, hbytes⟩ := opsel_eq_ok h
      exact ⟨hfmt, hwf, 0#5, hbytes 0#5⟩
  | canid11 => exact canid11_eq_ok h

/-! Operation to bytes -/

/-- The operands of a well-formed ENCODE are read back (R97). -/
theorem encodeOperands_encode (t : TargetId) (c : Byte) {n : LenOperand} {p : List Byte} (hp : p.length = n.toNat) :
    encodeOperands (t.setWidth 8 :: c :: n.setWidth 8 :: p) = .ok (.encode t c n p) := by
  have ht : (t.setWidth 8 : Byte).toNat = t.toNat := BitVec.toNat_setWidth_of_le (by decide)
  have hn : (n.setWidth 8 : Byte).toNat = n.toNat := BitVec.toNat_setWidth_of_le (by decide)
  have ht' : ((t.setWidth 8 : Byte).setWidth 5 : TargetId) = t := by bv_omega
  have hn' : ((n.setWidth 8 : Byte).setWidth 4 : LenOperand) = n := by bv_omega
  rw [encodeOperands, if_neg (by omega), if_neg (by omega), hn, ← hp, counted_self, ht', hn']

theorem targetOperand_encode (t : TargetId) : targetOperand (t.setWidth 8) = .ok (.setTarget t) := by
  have ht : (t.setWidth 8 : Byte).toNat = t.toNat := BitVec.toNat_setWidth_of_le (by decide)
  have ht' : ((t.setWidth 8 : Byte).setWidth 5 : TargetId) = t := by bv_omega
  rw [targetOperand, if_neg (by omega), ht']

/-- The bytes of an address that matches a row are read as that row (R85). -/
theorem canid11_of_row {a : Addr11} {r : FrameRow} (hr : frameRow a = some r) (rest : List Byte) :
    canid11 (addressLo a :: addressHi a :: rest) = frameRest a r.command rest := by
  simp only [canid11, if_neg (addressHi_lt a), address_of_bytes, hr]

/-- The payload of an inbound frame is read back from its length and its bytes (R98). -/
theorem framePayload_encode (k : List Byte → Instr) {p : List Byte} (h : p.length ≤ 8) :
    framePayload k (BitVec.ofNat 8 p.length :: p) = .ok (k p) := by
  rw [framePayload, lengthByte_toNat h, if_neg (by omega), counted_self]

/-- The rows of the outbound commands, whatever the target bits (R85). -/
theorem frameRow_outbound : ∀ t : TargetId,
    frameRow (0#1 ++ t ++ 0x01#5) = some ⟨.erase, 0x41F#11, 0x001#11⟩ ∧
    frameRow (0#1 ++ t ++ 0x02#5) = some ⟨.beginWrite, 0x41F#11, 0x002#11⟩ ∧
    frameRow (0#1 ++ t ++ 0x03#5) = some ⟨.writeData, 0x41F#11, 0x003#11⟩ ∧
    frameRow (0#1 ++ t ++ 0x04#5) = some ⟨.endWrite, 0x41F#11, 0x004#11⟩ ∧
    frameRow (0#1 ++ t ++ 0x05#5) = some ⟨.requestChecksum, 0x41F#11, 0x005#11⟩ := by decide

/-- The rows of the inbound commands, and the target field read back, whatever the target bits (R85). -/
theorem frameRow_inbound : ∀ t : TargetField,
    frameRow (t ++ 0x11#5) = some ⟨.acknowledgement, 0x01F#11, 0x011#11⟩ ∧
    frameRow (t ++ 0x12#5) = some ⟨.checksumReport, 0x01F#11, 0x012#11⟩ ∧
    (t ++ 0x11#5 : Addr11).extractLsb' 5 6 = t ∧ (t ++ 0x12#5 : Addr11).extractLsb' 5 6 = t := by decide

/-- Decoding the bytes of a well-formed operation gives it back, whatever target bits an outbound row carries. -/
theorem decode_encodeWith (t : TargetId) {i : Instr} (hwf : i.WellFormed) : decode i.format (encodeWith t i) = .ok i := by
  obtain ⟨herase, hbegin, hwrite, hend, hrequest⟩ := frameRow_outbound t
  cases i with
  | crcInit => rfl
  | crcUpdate b => rfl
  | crcRead => rfl
  | checksum bytes => rfl
  | encode target command len payload => exact encodeOperands_encode target command (beq_iff_eq.mp hwf)
  | decode f => exact frameOperand_encode .decode hwf
  | dispatch f => exact frameOperand_encode .dispatch hwf
  | armWait k => cases k <;> rfl
  | cancelWait => rfl
  | takeEvent => rfl
  | setTarget id => exact targetOperand_encode id
  | setVerbose flag => cases flag <;> rfl
  | frameErase => exact canid11_of_row herase []
  | frameBeginWrite => exact canid11_of_row hbegin []
  | frameWriteData b0 b1 b2 b3 => exact canid11_of_row hwrite [b0, b1, b2, b3]
  | frameEndWrite => exact canid11_of_row hend []
  | frameRequestChecksum => exact canid11_of_row hrequest []
  | frameAcknowledgement x p =>
    obtain ⟨hrow, -, hfield, -⟩ := frameRow_inbound x
    calc canid11 (Encode.inbound x 0x11#5 p) = _ := canid11_of_row hrow (BitVec.ofNat 8 p.length :: p)
      _ = _ := framePayload_encode _ (of_decide_eq_true hwf)
      _ = .ok (.frameAcknowledgement x p) := by rw [hfield]
  | frameChecksumReport x p =>
    obtain ⟨-, hrow, -, hfield⟩ := frameRow_inbound x
    calc canid11 (Encode.inbound x 0x12#5 p) = _ := canid11_of_row hrow (BitVec.ofNat 8 p.length :: p)
      _ = _ := framePayload_encode _ (of_decide_eq_true hwf)
      _ = .ok (.frameChecksumReport x p) := by rw [hfield]

/-! The statements -/

/-- Settles O1: each operand reader gives back what the encoder wrote. -/
theorem decodeOfEncodeIsTheOperation : Obligations.DecodeOfEncodeIsTheOperation :=
  fun t _ hwf => decode_encodeWith t hwf

/-- Settles O2: each operand reader accepts only what the encoder writes. -/
theorem decodedRequestIsTheEncoding : Obligations.DecodedRequestIsTheEncoding := by
  intro fmt bytes i h
  obtain ⟨hfmt, -, hbytes⟩ := decode_eq_ok h
  exact ⟨hfmt, hbytes⟩

/-- Settles O3: each operand reader checks the length it reads. -/
theorem decodedOperationsAreWellFormed : Obligations.DecodedOperationsAreWellFormed := by
  intro fmt bytes i h
  obtain ⟨-, hwf, -⟩ := decode_eq_ok h
  exact hwf

/-- Settles O4: the reader is chosen by the first byte, which no reader changes. -/
theorem opselNumbersTheOperations : Obligations.OpselNumbersTheOperations := by
  refine ⟨fun code operands i h => ?_, fun code operands hlow hhigh => opsel_of_reserved hlow hhigh operands⟩
  obtain ⟨-, -, hnumber, -⟩ := opsel_eq_ok h
  exact hnumber

/-- Settles O5: the outbound words are 5 times 32, the inbound ones 2 times 64. -/
theorem frameWordsOfTheTable : Obligations.FrameWordsOfTheTable := by
  unfold Obligations.FrameWordsOfTheTable
  constructor
  · decide
  · decide

/-- Settles O6: each of the seven requests is evaluated. -/
theorem writtenWordsDecode : Obligations.WrittenWordsDecode :=
  ⟨rfl, rfl, rfl, rfl, rfl, rfl, rfl⟩

end Sys2Proof.Decode
end

section
/-! PROOFS. The CRC step by bytes and by words, and the CRC operations on a written and an unwritten register
(40_crc_engine.md R113 to R120, R124). -/

namespace Sys2Proof.Machine

open Sys2Proof.Safety

/-! The step by bytes -/

/-- Eight iterations over a word enter its low byte and shift the rest down: the one fact behind the table form (R117) and
the residue (R124). -/
theorem crcShifts_eight_xor (r c : Word32) : crcShifts 8 (r ^^^ c) = crcStep r (c.setWidth 8) ^^^ (c >>> 8) := by
  have hsplit : c = (c.setWidth 8).setWidth 32 ^^^ ((c >>> 8) <<< 8) := by
    apply BitVec.eq_of_getLsbD_eq
    intro i hi
    by_cases h : i < 8
    · simp [h, hi]
    · simp [h, hi, Nat.add_sub_cancel' (Nat.le_of_not_lt h)]
  have hrest : crcShifts 8 ((c >>> 8) <<< 8) = c >>> 8 := by
    rw [crcShifts_of_low_zero 8 _ (fun i hi => by simp [hi])]
    apply BitVec.eq_of_toNat_eq
    simp only [BitVec.toNat_ushiftRight, BitVec.toNat_shiftLeft, Nat.shiftRight_eq_div_pow, Nat.shiftLeft_eq]
    omega
  calc crcShifts 8 (r ^^^ c) = crcShifts 8 (r ^^^ (c.setWidth 8).setWidth 32 ^^^ ((c >>> 8) <<< 8)) := by
        rw [BitVec.xor_assoc, ← hsplit]
    _ = crcStep r (c.setWidth 8) ^^^ (c >>> 8) := by rw [crcShifts_xor, hrest, crcStep]

/-- Iterations add up. -/
theorem crcShifts_add (m n : Nat) (x : Word32) : crcShifts (m + n) x = crcShifts n (crcShifts m x) := by
  induction m generalizing x with
  | zero => rw [Nat.zero_add, crcShifts]
  | succ m ih => rw [Nat.succ_add, crcShifts, ih, crcShifts]

/-- The table entry of a byte is the step of the zero register by it. -/
theorem crcTable_eq_crcStep_zero (i : Byte) : crcTable i = crcStep 0#32 i := by
  simp [crcTable, crcStep]

/-- Running a word's bytes, least significant first, is 32 iterations over the word. -/
theorem crcRun_leastFirst (r c : Word32) : crcRun r (leastFirst c) = crcShifts 32 (r ^^^ c) := by
  have hbyte : ∀ k, (c >>> k).setWidth 8 = c.extractLsb' k 8 := fun k => by
    rw [BitVec.extractLsb', ← BitVec.toNat_ushiftRight, BitVec.ofNat_toNat]
  have hpast : c >>> 32 = 0#32 := BitVec.ushiftRight_eq_zero (by decide)
  symm
  calc crcShifts 32 (r ^^^ c)
      = crcShifts 8 (crcShifts 8 (crcShifts 8 (crcShifts 8 (r ^^^ c)))) := by
        rw [← crcShifts_add, ← crcShifts_add, ← crcShifts_add]
    _ = crcRun r [(c >>> 0).setWidth 8, (c >>> 8).setWidth 8, (c >>> 16).setWidth 8, (c >>> 24).setWidth 8] ^^^
          (c >>> 32) := by
        simp only [crcShifts_eight_xor, ← BitVec.shiftRight_add, crcRun, BitVec.ushiftRight_zero]
    _ = crcRun r (leastFirst c) := by
        rw [hpast, BitVec.xor_zero, hbyte, hbyte, hbyte, hbyte, leastFirst]

/-! The operations -/

/-- CRC_UPDATE of an unwritten register faults (R113). -/
theorem exec_crcUpdate_of_crc_eq_none {s : State} (h : s.block.crc = none) (b : Byte) :
    exec (.crcUpdate b) s = .fault .crcUninitialised := by
  simp only [exec, execCrcUpdate, h]

/-- CRC_READ of an unwritten register faults (R114). -/
theorem exec_crcRead_of_crc_eq_none {s : State} (h : s.block.crc = none) :
    exec .crcRead s = .fault .crcUninitialised := by
  simp only [exec, execCrcRead, h]

/-- A result does not stand in the way of a write of CRC. -/
theorem State.setCrc_answer (s : State) (v : Word32) (r : Result) : (s.setCrc v).answer r = (s.answer r).setCrc v := rfl

/-! The statements -/

/-- Settles O19: the updates run the register CHECKSUM left on over the rest. -/
theorem updatesAfterAChecksumContinueIt : Obligations.UpdatesAfterAChecksumContinueIt := by
  intro s x y
  have hrun : crcRun (crcRun Config.crcInitVal x) y = ~~~ checksumOf (x ++ y) := by
    rw [complement_checksumOf, crcRun_append]
  rw [execAll_cons, exec_checksum, andThen_next, State.setCrc_answer, execAll_map_crcUpdate_crcRead, hrun,
    BitVec.not_not, State.setCrc_answer]
  rfl

/-- Settles O20: the step is injective in the byte, and what follows is injective in the register. -/
theorem aChangedByteChangesTheChecksum : Obligations.AChangedByteChangesTheChecksum := by
  refine ⟨by decide, fun before after b d hne heq => hne ?_⟩
  have hrun := BitVec.not_inj.mp heq
  rw [crcRun_append, crcRun_append] at hrun
  exact crcStep_injective_right (crcRun_injective hrun)

/-- Settles O21: the eight iterations enter the low byte into the zero register and shift the other three down. -/
theorem tableFormOfTheCrcStep : Obligations.TableFormOfTheCrcStep := by
  refine ⟨fun _ => rfl, fun r b => ?_, by decide, by decide, by decide, by decide⟩
  have hbyte : b.setWidth 32 >>> 8 = 0#32 := by bv_omega
  calc crcStep r b = crcShifts 8 (0#32 ^^^ (r ^^^ b.setWidth 32)) := by rw [BitVec.zero_xor, crcStep]
    _ = crcTable ((r ^^^ b.setWidth 32).setWidth 8) ^^^ ((r ^^^ b.setWidth 32) >>> 8) := by
        rw [crcShifts_eight_xor, crcTable_eq_crcStep_zero]
    _ = (r >>> 8) ^^^ crcTable ((r ^^^ b.setWidth 32).setWidth 8) := by
        rw [BitVec.ushiftRight_xor_distrib, hbyte, BitVec.xor_zero, BitVec.xor_comm]

/-- Settles O22: the register against its own complement is all ones, whatever the message. -/
theorem appendedChecksumLeavesTheResidue : Obligations.AppendedChecksumLeavesTheResidue := by
  intro m
  have hones : ∀ r : Word32, r ^^^ ~~~ r = BitVec.allOnes 32 := fun r => by
    rw [BitVec.not_def, BitVec.xor_comm, BitVec.xor_assoc, BitVec.xor_self, BitVec.xor_zero]
  have hresidue : crcRun 0xFFFFFFFF#32 (m ++ leastFirst (checksumOf m)) = 0xDEBB20E3#32 := by
    rw [crcRun_append, crcRun_leastFirst, checksumOf, Config.crcInitVal, hones]
    decide +kernel
  refine ⟨hresidue, ?_⟩
  rw [checksumOf, Config.crcInitVal, hresidue]
  decide

/-- Settles O13: CRC_UPDATE is one write of CRC, of the step of what it held. -/
theorem crcUpdateStepsTheRegister : Obligations.CrcUpdateStepsTheRegister := by
  intro s r b h
  rw [exec_crcUpdate_of_crc_eq h, setCrc_eq_withBlock]

/-- Settles O14: both operations read CRC first. -/
theorem useOfUnwrittenCrcFaults : Obligations.UseOfUnwrittenCrcFaults :=
  fun _ b h => ⟨exec_crcUpdate_of_crc_eq_none h b, exec_crcRead_of_crc_eq_none h⟩

/-- Settles O15: the result is the complement, and CRC is only read. -/
theorem crcReadReturnsTheComplement : Obligations.CrcReadReturnsTheComplement := by
  intro s r h
  rw [exec_crcRead_of_crc_eq h, answer_eq_returns]

/-- Settles O16: the loop of R116, its eight iterations written out. -/
theorem crcStepIsTheReflectedLoop : Obligations.CrcStepIsTheReflectedLoop :=
  fun _ _ => rfl

end Sys2Proof.Machine
end

section
/-! PROOFS. ENCODE in each of its cases and under every setting, the address it builds, and the two round trips with DECODE
(41_frame_codec.md R131 to R142, 93_implementation_defined.md U3). -/

namespace Sys2Proof.Machine

open Sys2Proof.Safety

/-! Addresses -/

/-- Bit 10 of an address is clear exactly when the address is at most 0x3FF (R94). -/
theorem getLsbD_ten_eq_false_iff (a : Addr11) : a.getLsbD 10 = false ↔ a.toNat ≤ 0x3FF := by
  have := a.isLt
  rw [BitVec.getLsbD, Nat.testBit_eq_decide_div_mod_eq, decide_eq_false_iff_not]
  omega

/-- The free value stands in bits [6:5] and nowhere else (U3). -/
theorem getLsbD_withBits65 (a : Addr11) (bits : BitVec 2) {i : Nat} (hi : i < 5 ∨ 7 ≤ i) (hi' : i < 11) :
    (withBits65 a bits).getLsbD i = a.getLsbD i := by
  have hmask : ∀ i < 11, i < 5 ∨ 7 ≤ i → (~~~(0x3#11 <<< 5) : Addr11).getLsbD i = true := by decide
  have hbits : (bits.setWidth 11 <<< 5 : Addr11).getLsbD i = false := by
    rw [BitVec.getLsbD_shiftLeft, BitVec.getLsbD_setWidth]
    rcases hi with h | h
    · simp [h]
    · simp [BitVec.getLsbD_of_ge bits (i - 5) (by omega)]
  rw [withBits65, BitVec.getLsbD_or, BitVec.getLsbD_and, hmask i hi' hi, hbits, Bool.and_true, Bool.or_false]

/-- A field that lies outside bits [6:5] does not notice the free value. -/
theorem extractLsb'_withBits65 (a : Addr11) (bits : BitVec 2) {start len : Nat} (h : start + len ≤ 5 ∨ 7 ≤ start)
    (h' : start + len ≤ 11) : (withBits65 a bits).extractLsb' start len = a.extractLsb' start len := by
  apply BitVec.eq_of_getLsbD_eq
  intro i hi
  rw [BitVec.getLsbD_extractLsb', BitVec.getLsbD_extractLsb', getLsbD_withBits65 a bits (by omega) (by omega)]

theorem toNat_withBits65_le {a : Addr11} (h : a.toNat ≤ 0x3FF) (bits : BitVec 2) : (withBits65 a bits).toNat ≤ 0x3FF := by
  rw [← getLsbD_ten_eq_false_iff] at h ⊢
  rw [getLsbD_withBits65 a bits (.inr (by decide)) (by decide), h]

/-- The target field of a shift-OR address: the target, or-ed with what of the command overflows its field (R132). -/
theorem targetOf_shiftOrAddress (t : TargetId) (c : Byte) :
    targetOf (shiftOrAddress t c) = BitVec.ofNat 6 (t.toNat ||| (c.toNat >>> 5)) := by
  rw [targetOf_eq_ofNat_div, toNat_shiftOrAddress, show (32 : Nat) = 2 ^ 5 from rfl, ← Nat.shiftRight_eq_div_pow,
    Nat.shiftRight_or_distrib, Nat.shiftLeft_shiftRight]

/-- The command field of a shift-OR address: the low five bits of the command (R132). -/
theorem commandOf_shiftOrAddress (t : TargetId) (c : Byte) :
    commandOf (shiftOrAddress t c) = BitVec.ofNat 5 (c.toNat % 32) := by
  rw [commandOf_eq_ofNat_mod, toNat_shiftOrAddress, show (32 : Nat) = 2 ^ 5 from rfl, Nat.or_mod_two_pow, Nat.shiftLeft_eq,
    Nat.mul_mod_left, Nat.zero_or]

/-- Bits [10:7] of a shift-OR address are the target's bits [4:2], whatever the command up to 0x7F. -/
theorem extractLsb'_seven_shiftOrAddress (t : TargetId) {c : Byte} (hc : c.toNat ≤ 0x7F) :
    (shiftOrAddress t c).extractLsb' 7 4 = (0#1 ++ t).extractLsb' 2 4 := by
  have hcommand : c.toNat >>> 7 = 0 := by
    rw [Nat.shiftRight_eq_div_pow]
    omega
  have htarget : t.toNat <<< 5 >>> 7 = t.toNat >>> 2 := by
    rw [Nat.shiftLeft_eq, Nat.shiftRight_eq_div_pow, Nat.shiftRight_eq_div_pow]
    omega
  apply BitVec.eq_of_toNat_eq
  rw [BitVec.extractLsb'_toNat, BitVec.extractLsb'_toNat, toNat_shiftOrAddress, Nat.shiftRight_or_distrib, hcommand, htarget,
    Nat.or_zero, toNat_append_eq_add]
  simp

/-- An address with bit 10 clear is the shift-OR address of its own fields (R142). -/
theorem shiftOrAddress_of_fields {a : Addr11} (h : a.getLsbD 10 = false) :
    shiftOrAddress ((targetOf a).setWidth 5) ((commandOf a).setWidth 8) = a := by
  have hlt := (getLsbD_ten_eq_false_iff a).mp h
  apply BitVec.eq_of_toNat_eq
  rw [toNat_shiftOrAddress, targetOf_eq_ofNat_div, commandOf_eq_ofNat_mod, ← Nat.shiftLeft_add_eq_or_of_lt, Nat.shiftLeft_eq]
  · simp only [BitVec.toNat_setWidth, BitVec.toNat_ofNat]
    omega
  · simp only [BitVec.toNat_setWidth, BitVec.toNat_ofNat]
    omega

/-- Whatever address ENCODE builds has bit 10 clear (R94). -/
theorem encodeAddress_le {p : Config.WideCmdResult} {drawn : BitVec 2} {t : TargetId} {c : Byte} {a : Addr11}
    (h : encodeAddress p drawn t c = some a) : a.toNat ≤ 0x3FF := by
  have hle := toNat_shiftOrAddress_le t c
  unfold encodeAddress at h
  split at h
  · split at h <;> cases h
    · exact hle
    · exact toNat_withBits65_le hle drawn
  · cases h
    exact hle

theorem encodeAddress_shiftOr (drawn : BitVec 2) (t : TargetId) (c : Byte) :
    encodeAddress .shiftOr drawn t c = some (shiftOrAddress t c) := by
  unfold encodeAddress
  split <;> rfl

/-! The cases of ENCODE -/

section
variable {s : State} {t : TargetId} {c : Byte} {len : LenOperand}

/-- Past the command check, a len above 8 is InvalidLength (R134, R141). -/
theorem exec_encode_of_long (hc : c.toNat ≤ 0x7F) (hl : 8 < len.toNat) (payload : List Byte) :
    exec (.encode t c len payload) s = .next (returns s (.invalidLength len)) := by
  have hcommand : ¬ Config.cmdLegalMax < c := by
    rw [BitVec.lt_def]
    exact Nat.not_lt.mpr hc
  have hlength : Config.payloadMax < len.toNat := hl
  have hout : s.encodeFrame t c len payload = .invalidLength := by
    rw [State.encodeFrame, Machine.encodeFrame, if_neg hcommand, if_pos hlength]
  simp only [exec, execEncode, hout, raise_eq]

/-- Past both checks, the frame has the address of the setting, if the setting gives one (R131, U3). -/
theorem exec_encode_of_address {a : Addr11} (hc : c.toNat ≤ 0x7F) (hl : len.toNat ≤ 8)
    (ha : encodeAddress s.cfg.wideCmd (Config.freeWideBits s.draws) t c = some a) (payload : List Byte) :
    exec (.encode t c len payload) s = .next (returns (s.afterEncode c) (.frame ⟨a, payload.take len.toNat⟩)) := by
  have hout : s.encodeFrame t c len payload = .built ⟨a, payload.take len.toNat⟩ := by
    rw [State.encodeFrame, encodeFrame_of_le hc hl]
    simp only [ha]
  simp only [exec, execEncode, hout, answer_eq_returns]

/-- Past both checks, a setting that gives no address is a refusal (U3). -/
theorem exec_encode_of_no_address (hc : c.toNat ≤ 0x7F) (hl : len.toNat ≤ 8)
    (ha : encodeAddress s.cfg.wideCmd (Config.freeWideBits s.draws) t c = none) (payload : List Byte) :
    exec (.encode t c len payload) s = .refused .wideCommand := by
  have hout : s.encodeFrame t c len payload = .wideRefused := by
    rw [State.encodeFrame, encodeFrame_of_le hc hl]
    simp only [ha]
  simp only [exec, execEncode, hout]

/-- Under shift-OR every command up to 0x7F gives the shift-OR address, and no draw is used (R132). -/
theorem exec_encode_of_shiftOr (hcfg : s.cfg.wideCmd = .shiftOr) (hc : c.toNat ≤ 0x7F) (hl : len.toNat ≤ 8)
    (payload : List Byte) :
    exec (.encode t c len payload) s = .next (returns s (.frame ⟨shiftOrAddress t c, payload.take len.toNat⟩)) := by
  have hdraw : s.afterEncode c = s := by simp [State.afterEncode, hcfg]
  rw [exec_encode_of_address hc hl (by rw [hcfg, encodeAddress_shiftOr]), hdraw]

end

/-! DECODE after ENCODE -/

/-- The fields of the layout of R88 are the target, zero-extended, and the command (R137). -/
theorem exec_decode_of_fits (t : TargetId) {c : Byte} (hc : c.toNat ≤ 0x1F) (p : List Byte) (s : State) :
    exec (.decode ⟨shiftOrAddress t c, p⟩) s = .next (returns s (.fields (t.setWidth 6) (c.setWidth 5) p)) := by
  have hover : c.toNat >>> 5 = 0 := by
    rw [Nat.shiftRight_eq_div_pow]
    omega
  rw [exec_decode, targetOf_shiftOrAddress, commandOf_shiftOrAddress, hover, Nat.or_zero, Nat.mod_eq_of_lt (by omega),
    BitVec.ofNat_toNat, BitVec.ofNat_toNat]

/-! What ENCODE depends on -/

/-- The draws used are ENCODE's only trace beside its result. -/
theorem afterEncode_eq_draws (s : State) (c : Byte) : s.afterEncode c = { s with draws := (s.afterEncode c).draws } := by
  obtain ⟨n, hn⟩ := afterEncode_eq s c
  rw [hn]

theorem afterEncode_draws_congr {s u : State} (hcfg : u.cfg = s.cfg) (hdraws : u.draws = s.draws) (c : Byte) :
    (u.afterEncode c).draws = (s.afterEncode c).draws := by
  unfold State.afterEncode
  rw [hcfg]
  split
  · rw [State.useDraw_draws, State.useDraw_draws, hdraws]
  · exact hdraws

/-- ENCODE reads the parameters and the draw and nothing else of the state (R140, U3). -/
theorem exec_encode_congr {s u : State} (hcfg : u.cfg = s.cfg) (hdraws : u.draws = s.draws) (t : TargetId) (c : Byte)
    (len : LenOperand) (payload : List Byte) :
    (∃ r n, exec (.encode t c len payload) s = .next { (returns s r) with draws := n } ∧
      exec (.encode t c len payload) u = .next { (returns u r) with draws := n }) ∨
    (exec (.encode t c len payload) s = .refused .wideCommand ∧
      exec (.encode t c len payload) u = .refused .wideCommand) := by
  have hout : u.encodeFrame t c len payload = s.encodeFrame t c len payload := by
    rw [State.encodeFrame, State.encodeFrame, hcfg, hdraws]
  simp only [exec, execEncode, hout, raise_eq, answer_eq_returns]
  cases s.encodeFrame t c len payload with
  | invalidCommand =>
    refine .inl ⟨_, s.draws, rfl, ?_⟩
    rw [← hdraws]
    rfl
  | invalidLength =>
    refine .inl ⟨_, s.draws, rfl, ?_⟩
    rw [← hdraws]
    rfl
  | wideRefused => exact .inr ⟨rfl, rfl⟩
  | built f =>
    refine .inl ⟨.frame f, (s.afterEncode c).draws, ?_, ?_⟩ <;> dsimp only
    · rw [afterEncode_eq_draws s c]
      rfl
    · rw [afterEncode_eq_draws u c, afterEncode_draws_congr hcfg hdraws]
      rfl

/-! The statements -/

/-- Settles O23: the command check, the length check, and the shift-OR address. -/
theorem encodeByItsPseudocode : Obligations.EncodeByItsPseudocode := by
  intro s t c len payload hcfg
  by_cases hc : 0x7F < c.toNat
  · rw [exec_encode_of_gt hc, if_pos hc]
  · rw [if_neg hc]
    by_cases hl : 8 < len.toNat
    · rw [exec_encode_of_long (Nat.not_lt.mp hc) hl, if_pos hl]
    · rw [exec_encode_of_shiftOr hcfg (Nat.not_lt.mp hc) (Nat.not_lt.mp hl), if_neg hl, ← toNat_shiftOrAddress,
        BitVec.ofNat_toNat, BitVec.setWidth_eq]

/-- Settles O24: a command that fits its field is not wide, and the two checks come before the setting. -/
theorem encodeOfFieldCommandsUnderEverySetting : Obligations.EncodeOfFieldCommandsUnderEverySetting := by
  intro s t c len payload
  refine ⟨fun hc hl => ?_, fun hc => exec_encode_of_gt hc s t len payload, fun hc hl => exec_encode_of_long hc hl payload⟩
  rw [exec_encode_of_fits hc hl, shiftOrAddress_field t hc, outboundFrame]

/-- Settles O27: the command's bits [6:5] are or-ed into the target's bits [1:0]. -/
theorem wideCommandsDecodeToAnotherPair : Obligations.WideCommandsDecodeToAnotherPair := by
  intro s t c len payload hcfg _ hc hl
  refine ⟨_, toNat_shiftOrAddress_le t c, exec_encode_of_shiftOr hcfg hc hl payload, ?_⟩
  rw [exec_decode, targetOf_shiftOrAddress, commandOf_shiftOrAddress,
    show c.toNat &&& 0x1F = c.toNat % 32 from Nat.and_two_pow_sub_one_eq_mod c.toNat 5]

/-- Settles O28: the free value stands in bits [6:5] of the shift-OR address, whatever it is. -/
theorem wideCommandsUnderTheOtherSettings : Obligations.WideCommandsUnderTheOtherSettings := by
  intro s t c len payload hlow hc hl
  have hwide := isWide_of_between hlow hc
  refine ⟨fun hcfg => ?_, fun hcfg => ?_⟩
  · have ha : encodeAddress s.cfg.wideCmd (Config.freeWideBits s.draws) t c =
        some (withBits65 (shiftOrAddress t c) (Config.freeWideBits s.draws)) := by
      simp only [encodeAddress, if_pos hwide, hcfg]
    have hdraw : s.afterEncode c = s.useDraw := by simp [State.afterEncode, hwide, hcfg]
    refine ⟨⟨withBits65 (shiftOrAddress t c) (Config.freeWideBits s.draws), payload.take len.toNat⟩, ?_, rfl, ?_, ?_⟩
    · rw [exec_encode_of_address hc hl ha, hdraw]
      rfl
    · rw [extractLsb'_withBits65 _ _ (.inl (by decide)) (by decide)]
      refine (commandOf_shiftOrAddress t c).trans ?_
      rw [← BitVec.setWidth_eq_extractLsb' (by decide)]
      bv_omega
    · rw [extractLsb'_withBits65 _ _ (.inr (by decide)) (by decide), extractLsb'_seven_shiftOrAddress t hc]
  · refine exec_encode_of_no_address hc hl ?_ payload
    simp only [encodeAddress, if_pos hwide, hcfg]

/-- Settles O30: the fields of the address are the operands, and the payload is kept whole. -/
theorem decodeAfterEncodeReturnsTheOperands : Obligations.DecodeAfterEncodeReturnsTheOperands := by
  intro s u t c payload hc hp
  have hlen := toNat_ofNat_length hp
  have hencode := exec_encode_of_fits hc (hlen.trans_le hp) s t payload
  rw [hlen, List.take_length] at hencode
  exact ⟨_, hencode, exec_decode_of_fits t hc payload u⟩

/-- Settles O31: the fields DECODE returns fit ENCODE's operands, and the address is theirs. -/
theorem encodeAfterDecodeReturnsTheFrame : Obligations.EncodeAfterDecodeReturnsTheFrame := by
  intro s u f hwf hbit
  refine ⟨_, _, _, exec_decode f s, ?_⟩
  have hp : f.payload.length ≤ 8 := of_decide_eq_true hwf
  have hlen := toNat_ofNat_length hp
  have hc : ((commandOf f.addressField).setWidth 8 : Byte).toNat ≤ 0x1F := by bv_omega
  rw [exec_encode_of_fits hc (hlen.trans_le hp), hlen, List.take_length, shiftOrAddress_of_fields hbit]

/-- Settles O32: a result that is a frame comes past both checks, with an address of the setting. -/
theorem encodedFramesHaveBit10Clear : Obligations.EncodedFramesHaveBit10Clear := by
  intro s u t c len payload f h htrace
  have hresult : ∀ {v : State} {r : Result}, v.env = s.env → exec (.encode t c len payload) s = .next (returns v r) →
      r = .frame f := by
    intro v r hv hexec
    cases hexec.symm.trans h
    simpa [returns, outputs, hv] using htrace
  rcases Nat.lt_or_ge 0x7F c.toNat with hc | hc
  · cases hresult rfl (exec_encode_of_gt hc s t len payload)
  rcases Nat.lt_or_ge 8 len.toNat with hl | hl
  · cases hresult rfl (exec_encode_of_long hc hl payload)
  cases ha : encodeAddress s.cfg.wideCmd (Config.freeWideBits s.draws) t c with
  | none => cases (exec_encode_of_no_address hc hl ha payload).symm.trans h
  | some a =>
    have hdraw : (s.afterEncode c).env = s.env := by rw [afterEncode_eq_draws]
    cases hresult hdraw (exec_encode_of_address hc hl ha payload)
    exact ⟨decide_eq_true ((List.length_take_le _ _).trans hl), encodeAddress_le ha⟩

/-- Settles O33: under shift-OR the result of O23 names no state; otherwise ENCODE reads the parameters and the draw. -/
theorem codecReadsAndWritesNoElement : Obligations.CodecReadsAndWritesNoElement := by
  rintro s u i (⟨t, c, len, payload, rfl⟩ | ⟨f, rfl⟩)
  · exact ⟨fun hs hu => ⟨_, encodeByItsPseudocode s t c len payload hs, encodeByItsPseudocode u t c len payload hu⟩,
      fun hcfg hdraws => exec_encode_congr hcfg hdraws t c len payload⟩
  · refine ⟨fun _ _ => ⟨_, exec_decode f s, exec_decode f u⟩, fun _ hdraws => .inl ⟨_, s.draws, exec_decode f s, ?_⟩⟩
    rw [← hdraws]
    exact exec_decode f u

end Sys2Proof.Machine
end

section
/-! PROOFS. The five outbound rows: each is the SEND of its command, with TARGET in its frame (45_host_boundary.md R200,
R205). -/

namespace Sys2Proof.Machine

open Sys2Proof.Safety

/-! The rows as SENDs -/

theorem exec_frameErase (s : State) : exec .frameErase s = sendCommand Config.cmdErase [] s := rfl

theorem exec_frameBeginWrite (s : State) :
    exec .frameBeginWrite s = sendCommand Config.cmdBeginWrite s.cfg.beginPayload s := rfl

theorem exec_frameWriteData (b0 b1 b2 b3 : Byte) (s : State) :
    exec (.frameWriteData b0 b1 b2 b3) s = sendCommand Config.cmdWriteData [b0, b1, b2, b3] s := rfl

theorem exec_frameEndWrite (s : State) :
    exec .frameEndWrite s = sendCommand Config.cmdEndWrite s.cfg.endPayload s := rfl

theorem exec_frameRequestChecksum (s : State) :
    exec .frameRequestChecksum s = sendCommand Config.cmdRequestChecksum s.cfg.reqPayload s := rfl

/-- An operation that answers a next state leaves the rest of the list to run from there. -/
theorem execAll_cons_of_next {i : Instr} {s t : State} (h : exec i s = .next t) (rest : List Instr) :
    execAll (i :: rest) s = execAll rest t := by
  rw [execAll_cons, h, andThen_next]

/-- SEND without a target faults (R26, R205). -/
theorem sendCommand_of_target_eq_none {s : State} (h : s.block.target = none) (c : Byte) (p : List Byte) :
    sendCommand c p s = .fault .targetUnset := by
  rw [sendCommand, h]

theorem exec_setTarget (id : TargetId) (s : State) :
    exec (.setTarget id) s = .next (withBlock s { s.block with target := some id }) := rfl

/-! The statements -/

/-- Settles O48: each command fits its field, and each payload has at most 8 bytes. -/
theorem outboundFramesCarryTheTarget : Obligations.OutboundFramesCarryTheTarget := by
  intro s t ht hcfg
  obtain ⟨hbegin, hend, hrequest⟩ := (params_wf_iff s.cfg).mp hcfg
  refine ⟨?_, ?_, fun b0 b1 b2 b3 => ?_, ?_, ?_⟩
  · exact sendCommand_sends ht (c := Config.cmdErase) (p := []) (by decide) (by simp)
  · exact sendCommand_sends ht (c := Config.cmdBeginWrite) (by decide) hbegin
  · exact sendCommand_sends ht (c := Config.cmdWriteData) (p := [b0, b1, b2, b3]) (by decide) (by simp)
  · exact sendCommand_sends ht (c := Config.cmdEndWrite) (by decide) hend
  · exact sendCommand_sends ht (c := Config.cmdRequestChecksum) (by decide) hrequest

/-- Settles O49: SEND reads TARGET first. -/
theorem outboundWithoutTargetFaults : Obligations.OutboundWithoutTargetFaults := by
  intro s h
  simp only [exec_frameErase, exec_frameBeginWrite, exec_frameWriteData, exec_frameEndWrite, exec_frameRequestChecksum,
    sendCommand_of_target_eq_none h, implies_true, and_self]

/-- Settles O45: SET_TARGET writes TARGET, and each row run next carries what it wrote. -/
theorem setTargetWritesTarget : Obligations.SetTargetWritesTarget := by
  intro s id t
  refine ⟨exec_setTarget id s, fun hcfg => ?_⟩
  have hthen : ∀ {i : Instr} {u : State}, exec i t = .next u → execAll [.setTarget id, i] s = .next u :=
    fun {i u} h => by rw [execAll_cons_of_next (exec_setTarget id s), execAll_cons_of_next h, execAll_nil]
  obtain ⟨herase, hbegin, hwrite, hend, hrequest⟩ := outboundFramesCarryTheTarget t id rfl hcfg
  exact ⟨hthen herase, hthen hbegin, fun b0 b1 b2 b3 => hthen (hwrite b0 b1 b2 b3), hthen hend, hthen hrequest⟩

end Sys2Proof.Machine
end

section
/-! PROOFS. Every row of the outcome table of DISPATCH, the inbound rows as frames to it, and what it does not read
(42_dispatcher.md R151 to R158, R160, R166). -/

namespace Sys2Proof.Machine

open Sys2Proof.Safety

/-! The rows -/

/-- DISPATCH of a frame that does not classify is one note (R154). -/
theorem exec_dispatch_of_unrecognised {f : Frame} {r : NoteReason}
    (hc : classify (commandOf f.addressField) f.payload = .unrecognised r) (s : State) :
    exec (.dispatch f) s = .next (outputs s [.note r f]) := by
  simp only [exec_dispatch, dispatchFrame, hc, note_eq_outputs]

/-- An event without a wait is dropped with a note (R157). -/
theorem deliver_of_wait_eq_none {s : State} (hw : s.block.wait = none) (e : Event) (f : Frame) :
    deliver e f s = outputs s [.note .noWaiter f] := by
  simp only [deliver, hw, note_eq_outputs]

/-- An event of the other kind wakes and is dropped with a note (R158). -/
theorem deliver_of_wait_ne {s : State} {e : Event} {k : Kind} (hw : s.block.wait = some k) (hk : k ≠ e.kindOf)
    (f : Frame) : deliver e f s = wakes s [.wake, .note .kindMismatch f] := by
  simp only [deliver, hw, if_neg hk, wake_note_eq]

/-! The inbound rows -/

/-- The command field of the layout of R81 is the command it was given. -/
theorem setWidth_inboundFrame (x : TargetField) (c : CommandField) (p : List Byte) :
    (inboundFrame x c p).addressField.setWidth 5 = c := by
  apply BitVec.eq_of_toNat_eq
  rw [inboundFrame, BitVec.toNat_setWidth, toNat_append_eq_add, Nat.mul_add_mod_self_right, Nat.mod_eq_of_lt c.isLt]

theorem exec_frameAcknowledgement (x : TargetField) (p : List Byte) (s : State) :
    exec (.frameAcknowledgement x p) s = exec (.dispatch (inboundFrame x 0x11#5 p)) s := rfl

theorem exec_frameChecksumReport (x : TargetField) (p : List Byte) (s : State) :
    exec (.frameChecksumReport x p) s = exec (.dispatch (inboundFrame x 0x12#5 p)) s := rfl

/-! What DISPATCH does not read -/

/-- A change of the block that the wait slot does not notice and that a delivery does not undo commutes with DISPATCH. -/
theorem dispatchFrame_withBlock {g : Block → Block} (hwait : ∀ b, (g b).wait = b.wait)
    (hdeliver : ∀ b e, { g b with wait := none, evt := some e } = g { b with wait := none, evt := some e })
    (f : Frame) (s : State) :
    dispatchFrame f (withBlock s (g s.block)) = withBlock (dispatchFrame f s) (g (dispatchFrame f s).block) := by
  cases hc : classify (commandOf f.addressField) f.payload with
  | unrecognised r =>
    simp only [dispatchFrame, hc]
    rfl
  | classified e =>
    simp only [dispatchFrame, hc]
    have hw' : (withBlock s (g s.block)).block.wait = s.block.wait := hwait s.block
    cases hw : s.block.wait with
    | none =>
      rw [deliver_of_wait_eq_none (hw'.trans hw), deliver_of_wait_eq_none hw]
      rfl
    | some k =>
      by_cases hk : k = e.kindOf
      · rw [hk] at hw
        rw [deliver_of_wait_eq (hw'.trans hw), deliver_of_wait_eq hw]
        simp only [withBlock, wakes, hdeliver]
      · rw [deliver_of_wait_ne (hw'.trans hw) hk, deliver_of_wait_ne hw hk]
        rfl

/-- Two frames DISPATCH cannot tell apart do the same, but that a note is about its own frame (R160). -/
theorem dispatchFrame_of_sameToDispatch {f g : Frame} (h : SameToDispatch f g) (s : State) :
    (dispatchFrame f s).block = (dispatchFrame g s).block ∧
    (dispatchFrame f s).env.flow = (dispatchFrame g s).env.flow ∧
    ∃ os, (dispatchFrame f s).env.trace = s.env.trace ++ os ∧
      (dispatchFrame g s).env.trace = s.env.trace ++ os.map (noteAbout g) := by
  obtain ⟨hcommand, hpayload⟩ := h
  cases hc : classify (commandOf g.addressField) g.payload with
  | unrecognised r =>
    simp only [dispatchFrame, hcommand, hpayload, hc]
    exact ⟨rfl, rfl, [.note r f], rfl, rfl⟩
  | classified e =>
    simp only [dispatchFrame, hcommand, hpayload, hc]
    cases hw : s.block.wait with
    | none =>
      rw [deliver_of_wait_eq_none hw, deliver_of_wait_eq_none hw]
      exact ⟨rfl, rfl, [.note .noWaiter f], rfl, rfl⟩
    | some k =>
      by_cases hk : k = e.kindOf
      · rw [hk] at hw
        rw [deliver_of_wait_eq hw, deliver_of_wait_eq hw]
        exact ⟨rfl, rfl, [.wake], rfl, rfl⟩
      · rw [deliver_of_wait_ne hw hk, deliver_of_wait_ne hw hk]
        exact ⟨rfl, rfl, [.wake, .note .kindMismatch f], rfl, rfl⟩

/-! The statements -/

/-- Settles O35: the frame's classification chooses the row, and WAIT its case. -/
theorem dispatchOutcomeTable : Obligations.DispatchOutcomeTable := by
  intro s f
  refine ⟨fun p0 rest ha hp => ?_, fun ha hp => ?_, fun p0 p1 p2 p3 rest ha hp => ?_, fun ha hp => ?_,
    fun hack hreport => ?_⟩
  · rw [exec_dispatch_of_classified (classify_of_ack ha hp)]
    refine ⟨fun hw => ?_, fun hw => ?_, fun hw => ?_⟩
    · rw [deliver_of_wait_eq hw]
    · rw [deliver_of_wait_ne hw (by simp [Event.kindOf])]
    · rw [deliver_of_wait_eq_none hw]
  · refine exec_dispatch_of_unrecognised ?_ s
    rw [commandOf_eq_setWidth, ha, hp]
    exact classify_ack_short
  · rw [exec_dispatch_of_classified (classify_of_report ha hp), ← bigEndian_eq_append]
    refine ⟨fun hw => ?_, fun hw => ?_, fun hw => ?_⟩
    · rw [deliver_of_wait_eq hw]
    · rw [deliver_of_wait_ne hw (by simp [Event.kindOf])]
    · rw [deliver_of_wait_eq_none hw]
  · refine exec_dispatch_of_unrecognised ?_ s
    rw [commandOf_eq_setWidth, ha]
    exact classify_report_short hp
  · refine exec_dispatch_of_unrecognised ?_ s
    rw [commandOf_eq_setWidth]
    exact classify_other hack hreport f.payload

/-- Settles O37: classification reads the command and the payload alone, and delivery WAIT alone. -/
theorem dispatchIgnoresTheTarget : Obligations.DispatchIgnoresTheTarget := by
  intro s f g
  refine ⟨fun hsame t u ht hu => ?_, fun target verbose => ?_⟩
  · cases ht
    cases hu
    exact dispatchFrame_of_sameToDispatch hsame s
  · have hcommutes := dispatchFrame_withBlock (g := fun b => { b with target := target, verbose := verbose })
      (fun _ => rfl) (fun _ _ => rfl) f s
    rw [exec_dispatch, exec_dispatch, hcommutes]
    rfl

/-- Settles O38: the row is DISPATCH of its frame, whose command field is 0x11 whatever the target field. -/
theorem acknowledgementFrames : Obligations.AcknowledgementFrames := by
  intro s x status rest
  simp only [exec_frameAcknowledgement]
  have ha := fun p => setWidth_inboundFrame x 0x11#5 p
  obtain ⟨hrows, -⟩ := dispatchOutcomeTable s (inboundFrame x 0x11#5 (status :: rest))
  obtain ⟨-, hshort, -⟩ := dispatchOutcomeTable s (inboundFrame x 0x11#5 [])
  obtain ⟨hmatch, hother, hnone⟩ := hrows status rest (ha _) rfl
  exact ⟨hmatch, hother, hnone, hshort (ha _) rfl⟩

/-- Settles O39: the row is DISPATCH of its frame, whose command field is 0x12 whatever the target field. -/
theorem checksumReportFrames : Obligations.ChecksumReportFrames := by
  intro s x p0 p1 p2 p3 rest short
  simp only [exec_frameChecksumReport]
  have ha := fun p => setWidth_inboundFrame x 0x12#5 p
  obtain ⟨-, -, hrows, -⟩ := dispatchOutcomeTable s (inboundFrame x 0x12#5 (p0 :: p1 :: p2 :: p3 :: rest))
  obtain ⟨-, -, -, hshort, -⟩ := dispatchOutcomeTable s (inboundFrame x 0x12#5 short)
  obtain ⟨hmatch, hother, hnone⟩ := hrows p0 p1 p2 p3 rest (ha _) rfl
  refine ⟨fun hw => ⟨p0 ++ p1 ++ p2 ++ p3, ?_, hmatch hw⟩, hother, hnone, hshort (ha _)⟩
  rw [← bigEndian_eq_append, toNat_bigEndian]

end Sys2Proof.Machine
end

section
/-! PROOFS. ARM_WAIT and CANCEL_WAIT in every state of the slot, and a deadline against a delivery (43_wait_and_config.md R181
to R184). -/

namespace Sys2Proof.Machine

open Sys2Proof.Safety

/-- WAIT.armed says that WAIT holds a kind (R25). -/
theorem Block.armed_eq_true_iff (b : Block) : b.armed = true ↔ b.wait ≠ none := by
  rw [Block.armed, Option.isSome_iff_ne_none]

theorem exec_armWait_of_wait_eq_none {s : State} (h : s.block.wait = none) (k : Kind) :
    exec (.armWait k) s = .next (withBlock s { s.block with wait := some k, evt := none }) := by
  have harmed : ¬ s.block.armed = true := fun ha => (Block.armed_eq_true_iff s.block).mp ha h
  simp only [exec, execArmWait, if_neg harmed]
  rfl

theorem exec_armWait_of_wait_ne_none {s : State} (h : s.block.wait ≠ none) (k : Kind) :
    exec (.armWait k) s = .fault .doubleArm := by
  simp only [exec, execArmWait, if_pos ((Block.armed_eq_true_iff s.block).mpr h)]

theorem exec_cancelWait (s : State) :
    exec .cancelWait s =
      .next (returns (withBlock s { s.block with wait := none }) (.wasArmed (decide (s.block.wait ≠ none)))) := by
  have harmed : s.block.armed = decide (s.block.wait ≠ none) := by
    rw [Bool.eq_iff_iff, Block.armed_eq_true_iff, decide_eq_true_iff]
  rw [← harmed]
  rfl

/-- Settles O40: with no wait armed the check of R182 passes, and the two elements of the slot are written. -/
theorem armWaitArmsAndEmptiesTheSlot : Obligations.ArmWaitArmsAndEmptiesTheSlot :=
  fun _ k h => exec_armWait_of_wait_eq_none h k

/-- Settles O41: the check reads whether a wait is armed, not of which kind. -/
theorem secondArmFaults : Obligations.SecondArmFaults :=
  fun _ _ k' h => exec_armWait_of_wait_ne_none (by simp [h]) k'

/-- Settles O42: the result is WAIT.armed from before the write. -/
theorem cancelWaitReleasesTheWait : Obligations.CancelWaitReleasesTheWait :=
  exec_cancelWait

/-- Settles O44: the delivery clears WAIT before CANCEL_WAIT reads it, or CANCEL_WAIT before the delivery does. -/
theorem deadlineAgainstDelivery : Obligations.DeadlineAgainstDelivery := by
  intro s f e hclass hwait hevt
  have hdispatch := exec_dispatch_of_classified hclass
  constructor
  · rw [execAll_cons_of_next (hdispatch s), deliver_of_wait_eq hwait, execAll_cons_of_next (exec_cancelWait _),
      execAll_cons_of_next (exec_takeEvent _), execAll_nil]
    simp [withBlock, wakes, returns, outputs, State.answer, State.output, State.setEvt, hevt]
  · have hcancel : exec .cancelWait s =
        .next (returns (withBlock s { s.block with wait := none }) (.wasArmed true)) := by
      rw [exec_cancelWait, hwait]
      rfl
    generalize hu : returns (withBlock s { s.block with wait := none }) (.wasArmed true) = u at hcancel
    have huwait : u.block.wait = none := by rw [← hu]; rfl
    have huevt : (outputs u [.note .noWaiter f]).block.evt = none := by rw [← hu]; exact hevt
    rw [execAll_cons_of_next hcancel, execAll_cons_of_next (hdispatch u), deliver_of_wait_eq_none huwait,
      execAll_cons_of_next (exec_takeEvent_of_evt_eq_none huevt), execAll_nil, ← hu]
    simp [withBlock, returns, outputs]

end Sys2Proof.Machine
end

section
/-! PROOFS. What a step does with the entry that heads the agenda: a request, an arriving frame, a placed table word
(10_state.md R24, R61; 20_memory.md R62, R63; 45_host_boundary.md R201, R202). -/

namespace Sys2Proof.Machine

open Sys2Proof.Safety

/-! The entry that comes next -/

/-- With nothing left to invoke the machine stays as it is (R277). -/
theorem step_of_agenda_nil {s : State} (h : s.env.agenda = []) : step s = .next s := by
  rw [step, h]

/-- A step performs the entry that heads the agenda (R63). -/
theorem step_of_agenda {s : State} {inv : Invocation} {rest : List Invocation} (h : s.env.agenda = inv :: rest) :
    step s = perform inv (s.begin inv rest) := by
  rw [step, h]

/-- A request that decodes runs its operation, or is refused to an agent that may not invoke it (R62). -/
theorem runRequest_of_decode {fmt : Format} {bytes : List Byte} {i : Instr} (h : decode fmt bytes = .ok i) (a : Agent)
    (s : State) : runRequest a fmt bytes s = if mayInvoke a i = true then exec i s else .refused .wrongAgent := by
  rw [runRequest, h]

/-! Which agent may invoke an operation -/

/-- The receive flow's operations are DISPATCH and the inbound rows (R62, R85). -/
theorem homeAgent_eq_receive_iff (i : Instr) : homeAgent i = .receive ↔ ReceiveOperation i := by
  cases i <;> simp [homeAgent, ReceiveOperation]

theorem homeAgent_eq_command_iff (i : Instr) : homeAgent i = .command ↔ ¬ ReceiveOperation i := by
  rw [← homeAgent_eq_receive_iff]
  cases homeAgent i <;> simp

theorem isDecode_iff (i : Instr) : isDecode i = true ↔ ∃ f, i = .decode f := by
  cases i <;> simp [isDecode]

/-- An agent may invoke its own operations, and either may DECODE (R62). -/
theorem mayInvoke_iff (a : Agent) (i : Instr) : mayInvoke a i = true ↔ homeAgent i = a ∨ ∃ f, i = .decode f := by
  rw [mayInvoke, Bool.or_eq_true, beq_iff_eq, isDecode_iff, eq_comm]

/-- No operation is refused for its agent once it runs: the only refusal of the block is ENCODE's (U3). -/
theorem exec_ne_refused_wrongAgent (i : Instr) (s : State) : exec i s ≠ .refused .wrongAgent := by
  have hsend : ∀ c p, sendCommand c p s ≠ .refused .wrongAgent := fun c p h => by
    unfold sendCommand at h
    split at h
    · cases h
    · split at h <;> cases h
  intro h
  cases i with
  | crcUpdate b => simp only [exec, execCrcUpdate] at h; split at h <;> cases h
  | crcRead => simp only [exec, execCrcRead] at h; split at h <;> cases h
  | encode t c len p => simp only [exec, execEncode] at h; split at h <;> cases h
  | armWait k => simp only [exec, execArmWait] at h; split at h <;> cases h
  | frameErase => rw [exec_frameErase] at h; exact hsend _ _ h
  | frameBeginWrite => rw [exec_frameBeginWrite] at h; exact hsend _ _ h
  | frameWriteData b0 b1 b2 b3 => rw [exec_frameWriteData] at h; exact hsend _ _ h
  | frameEndWrite => rw [exec_frameEndWrite] at h; exact hsend _ _ h
  | frameRequestChecksum => rw [exec_frameRequestChecksum] at h; exact hsend _ _ h
  | crcInit => cases h
  | checksum bytes => cases h
  | decode f => cases h
  | dispatch f => cases h
  | cancelWait => cases h
  | takeEvent => cases h
  | setTarget id => cases h
  | setVerbose flag => cases h
  | frameAcknowledgement x p => cases h
  | frameChecksumReport x p => cases h

/-! Arriving frames -/

theorem receiverStarted_iff (s : State) : s.receiverStarted = true ↔ ReceiverStarted s := Bool.and_eq_true_iff

/-- The frames the Frame type expresses (R84, R101). -/
theorem BusFrame.toFrame_of_fits {f : BusFrame} (hext : f.extended = false) (hrtr : f.remoteRequest = false)
    (hid : f.identifier < 2048) (hdata : f.data.length ≤ 8) :
    f.toFrame = some ⟨BitVec.ofNat 11 f.identifier, f.data⟩ := by
  have hdata' : ¬ Config.payloadMax < f.data.length := Nat.not_lt.mpr hdata
  simp [BusFrame.toFrame, hext, hrtr, hid, hdata']

/-- Any other frame has no value of the Frame type (U6). -/
theorem BusFrame.toFrame_of_outside {f : BusFrame}
    (h : f.extended = true ∨ f.remoteRequest = true ∨ 2048 ≤ f.identifier ∨ 8 < f.data.length) : f.toFrame = none := by
  have hmax : Config.payloadMax < f.data.length ↔ 8 < f.data.length := Iff.rfl
  rw [BusFrame.toFrame, if_pos]
  simpa [hmax, or_assoc] using h

/-! The statements -/

/-- Settles O7: the request decodes, and its agent may invoke the operation. -/
theorem stepRunsTheDecodedOperation : Obligations.StepRunsTheDecodedOperation := by
  intro s a fmt bytes rest i hagenda hdecode hagent
  rw [step_of_agenda hagenda, perform, runRequest_of_decode hdecode, if_pos ((mayInvoke_iff a i).mpr hagent)]
  rfl

/-- Settles O8: the switches come first, then the check against the Frame type. -/
theorem stepDispatchesArrivals : Obligations.StepDispatchesArrivals := by
  intro s f rest hagenda
  have hstart : (s.begin (.arrival f) rest).receiverStarted = true ↔ ReceiverStarted s := receiverStarted_iff s
  rw [step_of_agenda hagenda, perform, receiveArrival]
  refine ⟨fun hs hext hrtr hid hdata => ?_, fun hs houtside => ?_, fun hs => ?_⟩
  · rw [if_pos (hstart.mpr hs), BusFrame.toFrame_of_fits hext hrtr hid hdata]
    rfl
  · rw [if_pos (hstart.mpr hs), BusFrame.toFrame_of_outside houtside]
  · rw [if_neg (mt hstart.mp hs)]
    rfl

/-- Settles O9: the refusal is the agent check's alone, since no operation that runs gives it. -/
theorem agentsKeepToTheirOperations : Obligations.AgentsKeepToTheirOperations := by
  intro s a fmt bytes rest i hagenda hdecode
  refine ⟨homeAgent_eq_receive_iff i, ?_⟩
  have hrefused : step s = .refused .wrongAgent ↔ ¬ mayInvoke a i = true := by
    rw [step_of_agenda hagenda, perform, runRequest_of_decode hdecode]
    by_cases hmay : mayInvoke a i = true
    · simp [hmay, exec_ne_refused_wrongAgent]
    · simp [hmay]
  rw [hrefused, mayInvoke_iff, not_or, not_exists, and_comm]
  cases a with
  | receive => simp [homeAgent_eq_receive_iff]
  | command => simp [homeAgent_eq_command_iff]

/-- Settles O10: the entry that withFetchWord places is a request of the operation's own agent. -/
theorem placedTableWordRunsNext : Obligations.PlacedTableWordRunsNext := by
  intro s nbits w i hword
  have hagent : tableAgent nbits w = homeAgent i := by rw [tableAgent, hword]
  have hdecode : decode (Decode.formatOfWidth nbits) (Decode.tableBytes nbits w) = .ok i := by
    unfold decodeTableWord at hword
    split at hword
    · cases hword; assumption
    · cases hword
  have hagenda : (s.withFetchWord nbits w).env.agenda =
      .operation (homeAgent i) (Decode.formatOfWidth nbits) (Decode.tableBytes nbits w) :: s.env.agenda := by
    rw [← hagent]
    rfl
  rw [stepRunsTheDecodedOperation _ _ _ _ _ i hagenda hdecode (.inl rfl)]
  rfl

/-- Settles O11: reset holds the parameters' values, and with the defaults CRC and TARGET are unwritten. -/
theorem resetLeavesTheSpecValues : Obligations.ResetLeavesTheSpecValues :=
  ⟨fun _ => ⟨rfl, rfl⟩, rfl, fun _ => rfl, rfl, rfl⟩

end Sys2Proof.Machine
end

section
/-! PROOFS. What every operation, and with it every step, keeps: the slot's states, consistent acknowledgements, the
parameters, the outputs; what the receive flow can do to the block (10_state.md R30 to R33, 43_wait_and_config.md R192). -/

namespace Sys2Proof.Machine

open Sys2Proof.Safety

/-! What an operation keeps -/

/-- No operation leaves the slot both armed and pending (R32, R192). -/
theorem exec_keeps_slotExclusive {i : Instr} {s t : State} (hs : SlotExclusive s.block) (h : exec i s = .next t) :
    SlotExclusive t.block := by
  rcases exec_slot h with ⟨hwait, hevt⟩ | ⟨-, c, p, e, -, -, hwait, -⟩ | ⟨k, -, -, -, hevt⟩ | ⟨-, hwait, -⟩ | ⟨-, -, hevt⟩
  · rwa [SlotExclusive, hwait, hevt]
  · exact .inl hwait
  · exact .inr hevt
  · exact .inl hwait
  · exact .inr hevt

/-- What an operation leaves pending was pending before or has classified, so its success bit is true to its status
(R33). -/
theorem exec_keeps_ackConsistent {i : Instr} {s t : State} (hs : AckConsistent s.block) (h : exec i s = .next t) :
    AckConsistent t.block := by
  intro success status hpending
  rcases exec_slot h with ⟨-, hevt⟩ | ⟨-, c, p, e, hclass, -, -, hevt⟩ | ⟨k, -, -, -, hevt⟩ | ⟨-, -, hevt⟩ | ⟨-, -, hevt⟩
  · exact hs success status (hevt ▸ hpending)
  · rw [hevt] at hpending
    cases hpending
    exact classify_ack_consistent hclass
  · rw [hevt] at hpending
    cases hpending
  · exact hs success status (hevt ▸ hpending)
  · rw [hevt] at hpending
    cases hpending

/-- The three states of a slot that is not both armed and pending (R192). -/
theorem slotExclusive_cases {b : Block} (h : SlotExclusive b) :
    (b.wait = none ∧ b.evt = none) ∨ (∃ k, b.wait = some k ∧ b.evt = none) ∨ (∃ e, b.wait = none ∧ b.evt = some e) := by
  cases hwait : b.wait with
  | none =>
    cases hevt : b.evt with
    | none => exact .inl ⟨rfl, rfl⟩
    | some e => exact .inr (.inr ⟨e, rfl, rfl⟩)
  | some k =>
    rcases h with h | h
    · rw [hwait] at h
      cases h
    · exact .inr (.inl ⟨k, rfl, h⟩)

/-! What the receive flow can do -/

/-- The block afterwards is the block before, or the armed wait has been satisfied by an event of its kind (R30). -/
def Delivers (s t : State) : Prop :=
  t.block = s.block ∨ ∃ e, s.block.wait = some e.kindOf ∧ t.block = { s.block with wait := none, evt := some e }

theorem dispatchFrame_delivers (f : Frame) (s : State) : Delivers s (dispatchFrame f s) := by
  rcases dispatchFrame_block f s with h | ⟨e, -, hwait, h⟩
  · exact .inl h
  · exact .inr ⟨e, hwait, h⟩

/-- An operation of the receive flow has a next state, and at most delivers (R62). -/
theorem exec_of_receive {i : Instr} (h : mayInvoke .receive i = true) (s : State) :
    ∃ t, exec i s = .next t ∧ Delivers s t := by
  rcases (mayInvoke_iff _ _).mp h with hhome | ⟨f, rfl⟩
  · rcases (homeAgent_eq_receive_iff i).mp hhome with ⟨f, rfl⟩ | ⟨x, p, rfl⟩ | ⟨x, p, rfl⟩
    · exact ⟨_, rfl, dispatchFrame_delivers f s⟩
    · exact ⟨_, rfl, dispatchFrame_delivers _ s⟩
    · exact ⟨_, rfl, dispatchFrame_delivers _ s⟩
  · exact ⟨_, rfl, .inl rfl⟩

/-- A performed entry of the receive flow is refused, or answers a next state that at most delivers. -/
theorem perform_of_receive {inv : Invocation} (h : inv.agent = .receive) (s : State) :
    (∃ r, perform inv s = .refused r) ∨ ∃ t, perform inv s = .next t ∧ Delivers s t := by
  cases inv with
  | operation a fmt bytes =>
    cases h
    simp only [perform, runRequest]
    split
    · exact .inl ⟨_, rfl⟩
    split
    · rename_i hmay
      exact .inr (exec_of_receive hmay s)
    · exact .inl ⟨_, rfl⟩
  | arrival f =>
    simp only [perform, receiveArrival]
    split
    · split
      · exact .inl ⟨_, rfl⟩
      · exact .inr ⟨_, rfl, dispatchFrame_delivers _ s⟩
    · exact .inr ⟨s, rfl, .inl rfl⟩
  | host a => cases h

/-! What a performed entry leaves unwritten -/

/-- The parameters and the rest of the agenda are as before, and the outputs are extended at their end. -/
structure Extends (s t : State) : Prop where
  cfg : t.cfg = s.cfg
  agenda : t.env.agenda = s.env.agenda
  trace : ∃ os, t.env.trace = s.env.trace ++ os

theorem Extends.refl (s : State) : Extends s s := ⟨rfl, rfl, [], (List.append_nil _).symm⟩

theorem Extends.trans {s t u : State} (hst : Extends s t) (htu : Extends t u) : Extends s u := by
  obtain ⟨os, hos⟩ := hst.trace
  obtain ⟨os', hos'⟩ := htu.trace
  exact ⟨htu.cfg.trans hst.cfg, htu.agenda.trans hst.agenda, os ++ os', by rw [hos', hos, List.append_assoc]⟩

theorem Extends.setFlow {s t : State} (h : Extends s t) (f : Flow) : Extends s (t.setFlow f) := ⟨h.cfg, h.agenda, h.trace⟩

theorem Settles.extends {s t : State} (h : Settles s t) : Extends s t := ⟨h.cfg, h.agenda, h.trace⟩

theorem exec_extends {i : Instr} {s t : State} (h : exec i s = .next t) : Extends s t :=
  ⟨(exec_follows h).cfg, (exec_follows h).agenda, (exec_follows h).trace⟩

theorem resumeFlow_extends {s t : State} (h : resumeFlow s = .next t) : Extends s t := by
  rcases resumeFlow_cases h with rfl | ⟨j, u, -, hexec, rfl⟩ | ⟨j, u, stage, -, hexec, rfl, -⟩ |
    ⟨j, u, -, hexec, ⟨hsettles, -⟩ | ⟨-, rfl⟩⟩ | ⟨j, u, -, hexec, hsettles⟩ | ⟨j, u, -, hexec, hsettles⟩
  · exact .refl _
  · exact (exec_extends hexec).setFlow _
  · exact (exec_extends hexec).setFlow _
  · exact (exec_extends hexec).trans hsettles.extends
  · exact (exec_extends hexec).setFlow _
  · exact (exec_extends hexec).trans hsettles.extends
  · exact (exec_extends hexec).trans hsettles.extends

theorem deadlineFlow_extends {s t : State} (h : deadlineFlow s = .next t) : Extends s t := by
  rcases deadlineFlow_cases h with rfl | ⟨j, u, -, hexec, ⟨-, hsettles⟩ | ⟨-, rfl⟩⟩
  · exact .refl _
  · exact (exec_extends hexec).trans hsettles.extends
  · exact (exec_extends hexec).setFlow _

theorem shellCall_extends {c : ShellCall} {s t : State} (h : shellCall c s = .next t) : Extends s t := by
  rcases shellCall_cases h with ⟨i, u, -, hexec, -, -, -, hcfg, hagenda, htrace, -⟩ | ⟨-, hcfg, hagenda, htrace, -⟩
  · exact (exec_extends hexec).trans ⟨hcfg, hagenda, htrace⟩
  · exact ⟨hcfg, hagenda, htrace⟩

theorem hostAct_extends {a : HostAction} {s t : State} (h : hostAct a s = .next t) : Extends s t := by
  rcases hostAct_cases a s with ⟨u, hu, -, hcfg, hagenda, htrace, -⟩ | ⟨c, cs, -, hcall⟩ | hresume | hdeadline
  · rw [hu] at h
    cases h
    exact ⟨hcfg, hagenda, [], by rw [htrace, List.append_nil]⟩
  · have hqueue : Extends s (s.setCalls cs) := ⟨rfl, rfl, [], (List.append_nil _).symm⟩
    exact hqueue.trans (shellCall_extends (hcall ▸ h))
  · exact resumeFlow_extends (hresume ▸ h)
  · exact deadlineFlow_extends (hdeadline ▸ h)

theorem perform_extends {inv : Invocation} {s t : State} (h : perform inv s = .next t) : Extends s t := by
  cases inv with
  | operation a fmt bytes =>
    obtain ⟨i, hexec, -⟩ := runRequest_cases h (by simp)
    exact exec_extends hexec
  | arrival f =>
    rcases receiveArrival_cases h with rfl | ⟨g, hexec⟩
    · exact .refl _
    · exact exec_extends hexec
  | host a => exact hostAct_extends h

/-- A step leaves the state as it is, or performs the entry that heads the agenda. -/
theorem step_cases {s t : State} (h : step s = .next t) :
    t = s ∨ ∃ inv rest, s.env.agenda = inv :: rest ∧ perform inv (s.begin inv rest) = .next t := by
  unfold step at h
  split at h
  · cases h
    exact .inl rfl
  · rename_i inv rest hagenda
    exact .inr ⟨inv, rest, hagenda, h⟩

/-! The statements -/

/-- Settles O50: every operation keeps it, and a step writes the block by operations alone. -/
theorem stepKeepsTheSlotExclusive : Obligations.StepKeepsTheSlotExclusive :=
  fun _ _ hs h => step_keeps_block SlotExclusive (fun _ _ _ hu hexec => exec_keeps_slotExclusive hu hexec) hs h

/-- Settles O51: every operation keeps it, and a step writes the block by operations alone. -/
theorem stepKeepsAcknowledgementsConsistent : Obligations.StepKeepsAcknowledgementsConsistent :=
  fun _ _ hs h => step_keeps_block AckConsistent (fun _ _ _ hu hexec => exec_keeps_ackConsistent hu hexec) hs h

/-- Settles O52: after reset nothing is armed and nothing pending. -/
theorem slotRulesHoldAtReset : Obligations.SlotRulesHoldAtReset :=
  fun _ => ⟨.inl rfl, fun _ _ hpending => nomatch hpending⟩

/-- Settles O47: only the slot's own operations write WAIT or EVT, and each of them leaves one of the two empty. -/
theorem theSlotHasThreeStates : Obligations.TheSlotHasThreeStates := by
  intro i s t h
  refine ⟨fun hi => ?_, fun hs => slotExclusive_cases (exec_keeps_slotExclusive hs h)⟩
  rcases exec_slot h with hkeep | ⟨htouch, -⟩ | ⟨k, rfl, -⟩ | ⟨rfl, -⟩ | ⟨rfl, -⟩
  · exact hkeep
  · exact absurd htouch hi
  · exact absurd (.inr (.inl ⟨k, rfl⟩)) hi
  · exact absurd (.inr (.inr (.inl rfl))) hi
  · exact absurd (.inr (.inr (.inr (.inl rfl)))) hi

/-- Settles O53: the receive flow's operations are DISPATCH of some frame and DECODE. -/
theorem receiveFlowOnlyDelivers : Obligations.ReceiveFlowOnlyDelivers := by
  intro s inv rest hagenda hagent
  rw [step_of_agenda hagenda]
  rcases perform_of_receive hagent (s.begin inv rest) with ⟨r, h⟩ | ⟨u, h, hdelivers⟩
  · simp [h]
  · rw [h]
    refine ⟨fun _ hr => (nomatch hr), fun t ht => ?_⟩
    cases ht
    exact hdelivers

/-- Settles O54: operations and the host's moves alike append their outputs, and neither writes a parameter. -/
theorem stepKeepsParametersAndAppendsOutputs : Obligations.StepKeepsParametersAndAppendsOutputs := by
  intro s t h
  rcases step_cases h with rfl | ⟨inv, rest, -, hperform⟩
  · exact ⟨rfl, [], (List.append_nil _).symm⟩
  · obtain ⟨hcfg, -, htrace⟩ := perform_extends hperform
    exact ⟨hcfg, htrace⟩

end Sys2Proof.Machine
end

section
/-! PROOFS. The moves of the host's command flow, one equation per stage (45_host_boundary.md R204 to R208). -/

namespace Sys2Proof.Machine

open Sys2Proof.Safety

/-- The state after TAKE_EVENT (R185). -/
def State.taken (s : State) : State := returns (withBlock s { s.block with evt := none }) (.event s.block.evt)

/-- The state after CANCEL_WAIT (R183). -/
def State.cancelled (s : State) : State :=
  returns (withBlock s { s.block with wait := none }) (.wasArmed (decide (s.block.wait ≠ none)))

theorem exec_takeEvent_eq_taken (s : State) : exec .takeEvent s = .next s.taken := rfl

theorem exec_cancelWait_eq_cancelled (s : State) : exec .cancelWait s = .next s.cancelled := exec_cancelWait s

/-! A resume, by the stage the flow stands at -/

section
variable {s : State} {j : Job}

theorem resumeFlow_of_idle (h : s.env.flow = .idle) : resumeFlow s = .next s := by
  rw [resumeFlow, h]

theorem resumeFlow_of_arm (h : s.env.flow = .busy j .arm) :
    resumeFlow s = mapNext (fun t => t.setFlow (.busy j .send)) (exec (.armWait j.kind) s) := by
  rw [resumeFlow, h]
  rfl

theorem resumeFlow_of_send (h : s.env.flow = .busy j .send) :
    resumeFlow s =
      mapNext (fun t => t.setFlow (.busy j (if s.sendAccepted = true then .asleep else .cancelling))) (exec j.instr s) := by
  rw [resumeFlow, h]
  rfl

theorem resumeFlow_of_asleep (h : s.env.flow = .busy j .asleep) : resumeFlow s = .next s := by
  rw [resumeFlow, h]

theorem resumeFlow_of_cancelling (h : s.env.flow = .busy j .cancelling) :
    resumeFlow s = .next (failCall j .transportError s.cancelled) := by
  rw [resumeFlow, h]
  simp only [exec_cancelWait_eq_cancelled, andThen_next]

/-- Woken or late, an event that settles the command is its answer (R206). -/
theorem resumeFlow_of_settled {u : State} (h : s.env.flow = .busy j .woken ∨ s.env.flow = .busy j .late)
    (hsettle : j.settle s.block.evt s.taken = some u) : resumeFlow s = .next u := by
  rcases h with h | h <;> rw [resumeFlow, h] <;> simp only [exec_takeEvent_eq_taken, andThen_next, hsettle]

/-- Woken without its answer, the flow sleeps on (R206). -/
theorem resumeFlow_of_woken_unsettled (h : s.env.flow = .busy j .woken)
    (hsettle : j.settle s.block.evt s.taken = none) : resumeFlow s = .next (s.taken.setFlow (.busy j .asleep)) := by
  rw [resumeFlow, h]
  simp only [exec_takeEvent_eq_taken, andThen_next, hsettle]

/-- Late without its answer, the flow has timed out (R206). -/
theorem resumeFlow_of_late_unsettled (h : s.env.flow = .busy j .late)
    (hsettle : j.settle s.block.evt s.taken = none) : resumeFlow s = .next (failCall j .protocolTimeout s.taken) := by
  rw [resumeFlow, h]
  simp only [exec_takeEvent_eq_taken, andThen_next, hsettle]

/-! A deadline -/

/-- The deadline of a suspended wait that is still armed is a timeout (R184, R207). -/
theorem deadlineFlow_of_armed (h : s.env.flow = .busy j .asleep ∨ s.env.flow = .busy j .woken)
    (hwait : s.block.wait ≠ none) : deadlineFlow s = .next (failCall j .protocolTimeout s.cancelled) := by
  have harmed := (Block.armed_eq_true_iff s.block).mpr hwait
  rcases h with h | h <;> rw [deadlineFlow, h] <;> simp only [exec_cancelWait_eq_cancelled, andThen_next, harmed, if_true]

/-- The deadline of a wait that a delivery has satisfied leaves the answer to take (R184). -/
theorem deadlineFlow_of_delivered (h : s.env.flow = .busy j .asleep ∨ s.env.flow = .busy j .woken)
    (hwait : s.block.wait = none) : deadlineFlow s = .next (s.cancelled.setFlow (.busy j .late)) := by
  have harmed : ¬ s.block.armed = true := fun ha => (Block.armed_eq_true_iff s.block).mp ha hwait
  rcases h with h | h <;> rw [deadlineFlow, h] <;> simp only [exec_cancelWait_eq_cancelled, andThen_next, if_neg harmed]

/-- Outside a suspended wait there is no deadline (R207). -/
theorem deadlineFlow_of_not_suspended (h : ∀ j, s.env.flow ≠ .busy j .asleep ∧ s.env.flow ≠ .busy j .woken) :
    deadlineFlow s = .next s := by
  unfold deadlineFlow
  split
  · rename_i j hf; exact absurd hf (h j).1
  · rename_i j hf; exact absurd hf (h j).2
  all_goals rfl

end

/-! What an event settles -/

/-- What an acknowledgement does for its command, in the words of Safety (R206, R210). -/
def ackMove (j : AckJob) (success : Bool) : Flow × List Output :=
  match success, j with
  | true, .erase => (.idle, [.finished .erased])
  | true, .upload image ours ph => (afterPhase image ours ph, progressAfter image ph)
  | false, j => (.idle, failOutputs .deviceRejected (.ack j))

theorem settleAck_eq_moves (j : AckJob) (success : Bool) (s : State) :
    settleAck j success s = moves s (ackMove j success).1 (ackMove j success).2 := by
  cases success with
  | false => exact failCall_eq (.ack j) .deviceRejected s
  | true =>
    cases j with
    | erase => rfl
    | upload image ours ph => exact afterAck_upload_eq image ours ph s

/-- What a report does for its command, in the words of Safety (R208, R217). -/
def sumOutcome (j : SumJob) (value : Word32) : CallOutcome :=
  match j with
  | .query => .reported value
  | .verify ours => if ours = value then .verified value else .rejected ours value

theorem settleSum_eq_moves (j : SumJob) (value : Word32) (s : State) :
    settleSum j value s = moves s .idle [.finished (sumOutcome j value)] := by
  cases j with
  | query => rfl
  | verify ours =>
    by_cases h : ours = value
    · simp only [settleSum, sumOutcome, if_pos h]
      rfl
    · simp only [settleSum, sumOutcome, if_neg h]
      rfl

/-- Whether an event settles a command, and by which move, does not depend on the state. -/
theorem settle_uniform (j : Job) (e : Option Event) :
    (∀ s, j.settle e s = none) ∨ ∃ flow os, ∀ s, j.settle e s = some (moves s flow os) := by
  rcases e with _ | e
  · exact .inl fun s => by cases j <;> rfl
  cases j with
  | ack a =>
    cases e with
    | acknowledgement ok status => exact .inr ⟨_, _, fun s => congrArg some (settleAck_eq_moves a ok s)⟩
    | checksumReport v => exact .inl fun _ => rfl
  | sum b =>
    cases e with
    | acknowledgement ok status => exact .inl fun _ => rfl
    | checksumReport v => exact .inr ⟨_, _, fun s => congrArg some (settleSum_eq_moves b v s)⟩

end Sys2Proof.Machine
end

section
/-! PROOFS. VERBOSE changes no outcome of a step (10_state.md R27, 43_wait_and_config.md R190). -/

namespace Sys2Proof.Machine

open Sys2Proof.Safety

/-! Outcomes that differ in VERBOSE alone -/

/-- The same fault or refusal, or next states of which the second is the first with VERBOSE at `v`. -/
def DiffersInVerbose (v : Bool) (o o' : Out) : Prop := o' = mapNext (fun t => withVerbose t v) o

@[simp] theorem mapNext_next (g : State → State) (s : State) : mapNext g (.next s) = .next (g s) := rfl

/-- A move that does not notice VERBOSE keeps outcomes that differ in it alone so. -/
theorem DiffersInVerbose.mapNext {v : Bool} {o o' : Out} (h : DiffersInVerbose v o o') {g : State → State}
    (hg : ∀ t, g (withVerbose t v) = withVerbose (g t) v) :
    DiffersInVerbose v (Safety.mapNext g o) (Safety.mapNext g o') := by
  subst h
  cases o with
  | next t => exact congrArg Host.Outcome.next (hg t)
  | fault r => rfl
  | refused r => rfl

/-! Operations -/

theorem afterEncode_withVerbose (s : State) (v : Bool) (c : Byte) :
    (withVerbose s v).afterEncode c = withVerbose (s.afterEncode c) v := by
  unfold State.afterEncode
  have hcfg : (withVerbose s v).cfg = s.cfg := rfl
  rw [hcfg]
  split <;> rfl

theorem sendCommand_withVerbose (c : Byte) (p : List Byte) (s : State) (v : Bool) :
    DiffersInVerbose v (sendCommand c p s) (sendCommand c p (withVerbose s v)) := by
  have htarget : (withVerbose s v).block.target = s.block.target := rfl
  have hencode : ∀ t, (withVerbose s v).encodeFrame t c (lenOperand p) p = s.encodeFrame t c (lenOperand p) p :=
    fun _ => rfl
  unfold sendCommand
  simp only [htarget, hencode, afterEncode_withVerbose]
  cases s.block.target with
  | none => rfl
  | some t =>
    dsimp only
    cases s.encodeFrame t c (lenOperand p) p <;> rfl

theorem execEncode_withVerbose (t : TargetId) (c : Byte) (len : LenOperand) (p : List Byte) (s : State) (v : Bool) :
    DiffersInVerbose v (execEncode t c len p s) (execEncode t c len p (withVerbose s v)) := by
  have hencode : (withVerbose s v).encodeFrame t c len p = s.encodeFrame t c len p := rfl
  unfold execEncode
  simp only [hencode, afterEncode_withVerbose]
  cases s.encodeFrame t c len p <;> rfl

theorem dispatchFrame_withVerbose (f : Frame) (s : State) (v : Bool) :
    dispatchFrame f (withVerbose s v) = withVerbose (dispatchFrame f s) v :=
  dispatchFrame_withBlock (g := fun b => { b with verbose := v }) (fun _ => rfl) (fun _ _ => rfl) f s

/-- No operation but SET_VERBOSE notices VERBOSE (R27). -/
theorem exec_withVerbose {i : Instr} (hi : ∀ flag, i ≠ .setVerbose flag) (s : State) (v : Bool) :
    DiffersInVerbose v (exec i s) (exec i (withVerbose s v)) := by
  cases i with
  | crcUpdate b =>
    cases hcrc : s.block.crc with
    | none =>
      rw [exec_crcUpdate_of_crc_eq_none hcrc, exec_crcUpdate_of_crc_eq_none (s := withVerbose s v) hcrc]
      rfl
    | some r =>
      rw [exec_crcUpdate_of_crc_eq hcrc, exec_crcUpdate_of_crc_eq (s := withVerbose s v) hcrc]
      rfl
  | crcRead =>
    cases hcrc : s.block.crc with
    | none =>
      rw [exec_crcRead_of_crc_eq_none hcrc, exec_crcRead_of_crc_eq_none (s := withVerbose s v) hcrc]
      rfl
    | some r =>
      rw [exec_crcRead_of_crc_eq hcrc, exec_crcRead_of_crc_eq (s := withVerbose s v) hcrc]
      rfl
  | armWait k =>
    by_cases hwait : s.block.wait = none
    · rw [exec_armWait_of_wait_eq_none hwait, exec_armWait_of_wait_eq_none (s := withVerbose s v) hwait]
      rfl
    · rw [exec_armWait_of_wait_ne_none hwait, exec_armWait_of_wait_ne_none (s := withVerbose s v) hwait]
      rfl
  | encode t c len p => exact execEncode_withVerbose t c len p s v
  | dispatch f => exact congrArg Host.Outcome.next (dispatchFrame_withVerbose f s v)
  | frameAcknowledgement x p => exact congrArg Host.Outcome.next (dispatchFrame_withVerbose _ s v)
  | frameChecksumReport x p => exact congrArg Host.Outcome.next (dispatchFrame_withVerbose _ s v)
  | frameErase => exact sendCommand_withVerbose Config.cmdErase [] s v
  | frameBeginWrite => exact sendCommand_withVerbose Config.cmdBeginWrite s.cfg.beginPayload s v
  | frameWriteData b0 b1 b2 b3 => exact sendCommand_withVerbose Config.cmdWriteData [b0, b1, b2, b3] s v
  | frameEndWrite => exact sendCommand_withVerbose Config.cmdEndWrite s.cfg.endPayload s v
  | frameRequestChecksum => exact sendCommand_withVerbose Config.cmdRequestChecksum s.cfg.reqPayload s v
  | setVerbose flag => exact absurd rfl (hi flag)
  | crcInit => rfl
  | checksum bytes => rfl
  | decode f => rfl
  | cancelWait => rfl
  | takeEvent => rfl
  | setTarget id => rfl

/-- After SET_VERBOSE VERBOSE is the flag, whatever it was (R189). -/
theorem exec_withVerbose_exists (i : Instr) (s : State) (v : Bool) :
    ∃ v', DiffersInVerbose v' (exec i s) (exec i (withVerbose s v)) := by
  by_cases hi : ∃ flag, i = .setVerbose flag
  · obtain ⟨flag, rfl⟩ := hi
    exact ⟨flag, rfl⟩
  · exact ⟨v, exec_withVerbose (fun flag h => hi ⟨flag, h⟩) s v⟩

/-! The host -/

theorem Job.instr_ne_setVerbose (j : Job) (flag : Bool) : j.instr ≠ .setVerbose flag := by
  rcases j with (_ | ⟨image, ours, _ | _ | i | _⟩) | b <;> exact nofun

theorem failCall_withVerbose (j : Job) (cause : FailCause) (s : State) (v : Bool) :
    failCall j cause (withVerbose s v) = withVerbose (failCall j cause s) v := by
  rw [failCall_eq, failCall_eq]
  rfl

theorem resumeFlow_withVerbose (s : State) (v : Bool) :
    DiffersInVerbose v (resumeFlow s) (resumeFlow (withVerbose s v)) := by
  have hflow : (withVerbose s v).env.flow = s.env.flow := rfl
  cases hf : s.env.flow with
  | idle =>
    rw [resumeFlow_of_idle hf, resumeFlow_of_idle (hflow.trans hf)]
    rfl
  | busy j stage =>
    cases stage with
    | arm =>
      rw [resumeFlow_of_arm hf, resumeFlow_of_arm (hflow.trans hf)]
      exact (exec_withVerbose (i := .armWait j.kind) nofun s v).mapNext (fun _ => rfl)
    | send =>
      rw [resumeFlow_of_send hf, resumeFlow_of_send (hflow.trans hf)]
      exact (exec_withVerbose j.instr_ne_setVerbose s v).mapNext (fun _ => rfl)
    | asleep =>
      rw [resumeFlow_of_asleep hf, resumeFlow_of_asleep (hflow.trans hf)]
      rfl
    | cancelling =>
      rw [resumeFlow_of_cancelling hf, resumeFlow_of_cancelling (hflow.trans hf)]
      exact congrArg Host.Outcome.next (failCall_withVerbose j _ s.cancelled v)
    | woken =>
      rcases settle_uniform j s.block.evt with hnone | ⟨flow, os, hmoves⟩
      · rw [resumeFlow_of_woken_unsettled hf (hnone _), resumeFlow_of_woken_unsettled (hflow.trans hf) (hnone _)]
        rfl
      · rw [resumeFlow_of_settled (.inl hf) (hmoves _), resumeFlow_of_settled (.inl (hflow.trans hf)) (hmoves _)]
        rfl
    | late =>
      rcases settle_uniform j s.block.evt with hnone | ⟨flow, os, hmoves⟩
      · rw [resumeFlow_of_late_unsettled hf (hnone _), resumeFlow_of_late_unsettled (hflow.trans hf) (hnone _)]
        exact congrArg Host.Outcome.next (failCall_withVerbose j _ s.taken v)
      · rw [resumeFlow_of_settled (.inr hf) (hmoves _), resumeFlow_of_settled (.inr (hflow.trans hf)) (hmoves _)]
        rfl

theorem deadlineFlow_withVerbose (s : State) (v : Bool) :
    DiffersInVerbose v (deadlineFlow s) (deadlineFlow (withVerbose s v)) := by
  by_cases hf : ∃ j, s.env.flow = .busy j .asleep ∨ s.env.flow = .busy j .woken
  · obtain ⟨j, hf⟩ := hf
    by_cases hwait : s.block.wait = none
    · rw [deadlineFlow_of_delivered hf hwait, deadlineFlow_of_delivered (s := withVerbose s v) hf hwait]
      rfl
    · rw [deadlineFlow_of_armed hf hwait, deadlineFlow_of_armed (s := withVerbose s v) hf hwait]
      exact congrArg Host.Outcome.next (failCall_withVerbose j _ s.cancelled v)
  · have hnot : ∀ j, s.env.flow ≠ .busy j .asleep ∧ s.env.flow ≠ .busy j .woken := by
      simpa only [not_exists, not_or] using hf
    rw [deadlineFlow_of_not_suspended hnot, deadlineFlow_of_not_suspended (s := withVerbose s v) hnot]
    rfl

theorem shellCall_withVerbose (c : ShellCall) (s : State) (v : Bool) :
    ∃ v', DiffersInVerbose v' (shellCall c s) (shellCall c (withVerbose s v)) := by
  cases c with
  | erase => exact ⟨v, rfl⟩
  | uploadImage file => cases file <;> exact ⟨v, rfl⟩
  | queryChecksum => exact ⟨v, rfl⟩
  | setTargetIdentifier id =>
    unfold shellCall
    dsimp only
    split <;> exact ⟨v, rfl⟩
  | setVerboseLogging flag => exact ⟨flag, rfl⟩

theorem nextCall_withVerbose (s : State) (v : Bool) :
    ∃ v', DiffersInVerbose v' (nextCall s) (nextCall (withVerbose s v)) := by
  have hcalls : (withVerbose s v).env.calls = s.env.calls := rfl
  rw [nextCall, nextCall, hcalls]
  cases s.env.calls with
  | nil => exact ⟨v, rfl⟩
  | cons c rest => exact shellCall_withVerbose c (s.setCalls rest) v

theorem hostAct_withVerbose (a : HostAction) (s : State) (v : Bool) :
    ∃ v', DiffersInVerbose v' (hostAct a s) (hostAct a (withVerbose s v)) := by
  have hflow : (withVerbose s v).env.flow = s.env.flow := rfl
  cases a with
  | onReceive => exact ⟨v, rfl⟩
  | startReceiving => exact ⟨v, rfl⟩
  | call c =>
    simp only [hostAct, hflow]
    split
    · exact nextCall_withVerbose (s.setCalls (s.env.calls ++ [c])) v
    · exact ⟨v, rfl⟩
  | resume =>
    simp only [hostAct, hflow]
    split
    · exact nextCall_withVerbose s v
    · exact ⟨v, resumeFlow_withVerbose s v⟩
  | deadline => exact ⟨v, deadlineFlow_withVerbose s v⟩

/-! The step -/

theorem perform_withVerbose (inv : Invocation) (s : State) (v : Bool) :
    ∃ v', DiffersInVerbose v' (perform inv s) (perform inv (withVerbose s v)) := by
  cases inv with
  | operation a fmt bytes =>
    simp only [perform, runRequest]
    split
    · exact ⟨v, rfl⟩
    · split
      · exact exec_withVerbose_exists _ s v
      · exact ⟨v, rfl⟩
  | arrival f =>
    have hstarted : (withVerbose s v).receiverStarted = s.receiverStarted := rfl
    simp only [perform, receiveArrival, hstarted]
    split
    · split
      · exact ⟨v, rfl⟩
      · exact exec_withVerbose_exists _ s v
    · exact ⟨v, rfl⟩
  | host a => exact hostAct_withVerbose a s v

/-- Settles O55: only SET_VERBOSE writes VERBOSE, and nothing reads it. -/
theorem verboseChangesNoOutcome : Obligations.VerboseChangesNoOutcome := by
  intro s v
  cases hagenda : s.env.agenda with
  | nil =>
    rw [step_of_agenda_nil hagenda, step_of_agenda_nil (s := withVerbose s v) hagenda]
    exact ⟨v, rfl⟩
  | cons inv rest =>
    rw [step_of_agenda hagenda, step_of_agenda (s := withVerbose s v) hagenda]
    exact perform_withVerbose inv (s.begin inv rest) v

end Sys2Proof.Machine
end

section
/-! PROOFS. The discipline of a host of shell calls: one wait at a time, events of the kind it armed, never DoubleArm
(10_state.md R32, 43_wait_and_config.md R182, R191, 45_host_boundary.md R209). -/

namespace Sys2Proof.Machine

open Sys2Proof.Safety

/-! The discipline as a relation of the flow and the block -/

/-- What the slot may hold where the command flow stands: no wait between calls, before arming and late; inside a wait, only
the armed kind. -/
def SlotFits (b : Block) : Flow → Prop
  | .idle => b.wait = none
  | .busy _ .arm => b.wait = none
  | .busy j .late => b.wait = none ∧ FlowKind.SlotOfKind b j.kind
  | .busy j .send => SlotExclusive b ∧ FlowKind.SlotOfKind b j.kind
  | .busy j .asleep => SlotExclusive b ∧ FlowKind.SlotOfKind b j.kind
  | .busy j .woken => SlotExclusive b ∧ FlowKind.SlotOfKind b j.kind
  | .busy j .cancelling => SlotExclusive b ∧ FlowKind.SlotOfKind b j.kind

theorem slotFits_iff (s : State) :
    SlotFits s.block s.env.flow ↔ SlotExclusive s.block ∧ FlowClear s ∧ FlowKind s := by
  unfold FlowClear FlowKind
  cases s.env.flow with
  | idle => exact ⟨fun h => ⟨.inl h, h, trivial⟩, fun ⟨_, h, _⟩ => h⟩
  | busy j stage =>
    cases stage with
    | arm => exact ⟨fun h => ⟨.inl h, h, trivial⟩, fun ⟨_, h, _⟩ => h⟩
    | late => exact ⟨fun ⟨h, hkind⟩ => ⟨.inl h, h, hkind⟩, fun ⟨_, h, hkind⟩ => ⟨h, hkind⟩⟩
    | send => exact ⟨fun ⟨h, hkind⟩ => ⟨h, trivial, hkind⟩, fun ⟨h, _, hkind⟩ => ⟨h, hkind⟩⟩
    | asleep => exact ⟨fun ⟨h, hkind⟩ => ⟨h, trivial, hkind⟩, fun ⟨h, _, hkind⟩ => ⟨h, hkind⟩⟩
    | woken => exact ⟨fun ⟨h, hkind⟩ => ⟨h, trivial, hkind⟩, fun ⟨h, _, hkind⟩ => ⟨h, hkind⟩⟩
    | cancelling => exact ⟨fun ⟨h, hkind⟩ => ⟨h, trivial, hkind⟩, fun ⟨h, _, hkind⟩ => ⟨h, hkind⟩⟩

theorem hostInv_iff (s : State) : HostInv s ↔ ShellOnly s.env.agenda ∧ SlotFits s.block s.env.flow := by
  rw [HostInv, slotFits_iff]

/-- Between calls and before arming, no wait armed is all there is to it. -/
theorem slotFits_of_wait_eq_none {b : Block} {flow : Flow} (h : flow = .idle ∨ ∃ j, flow = .busy j .arm)
    (hwait : b.wait = none) : SlotFits b flow := by
  rcases h with rfl | ⟨j, rfl⟩ <;> exact hwait

/-- After a command is settled nothing is armed, if nothing was. -/
theorem Settles.slotFits {s t : State} (h : Settles s t) (hwait : s.block.wait = none) : SlotFits t.block t.env.flow :=
  slotFits_of_wait_eq_none h.flow (by rw [h.block, hwait])

/-- The discipline reads no element but WAIT and EVT. -/
theorem SlotFits.congr {b b' : Block} {flow : Flow} (h : SlotFits b flow) (hwait : b'.wait = b.wait)
    (hevt : b'.evt = b.evt) : SlotFits b' flow := by
  cases flow with
  | idle => exact hwait.trans h
  | busy j stage =>
    cases stage <;> simpa only [SlotFits, SlotExclusive, FlowKind.SlotOfKind, hwait, hevt] using h

/-! The receive flow -/

/-- A flow that is woken waits on. -/
theorem SlotFits.onWake {b : Block} {flow : Flow} (h : SlotFits b flow) : SlotFits b flow.onWake := by
  rcases onWake_cases flow with ⟨j, rfl, hwoken⟩ | hsame
  · rw [hwoken]
    exact h
  · rwa [hsame]

/-- A delivery has the kind of the wait it satisfies, and where a wait is armed the flow is inside its wait (R191). -/
theorem SlotFits.deliver {b : Block} {flow : Flow} {e : Event} (h : SlotFits b flow) (hwait : b.wait = some e.kindOf) :
    SlotFits { b with wait := none, evt := some e } flow := by
  have hnone : b.wait ≠ none := by simp [hwait]
  have hkind : ∀ k, FlowKind.SlotOfKind b k → FlowKind.SlotOfKind { b with wait := none, evt := some e } k := by
    rintro k ⟨harmed, -⟩
    refine ⟨fun _ hk => (nomatch hk), fun e' he => ?_⟩
    cases he
    exact harmed _ hwait
  cases flow with
  | idle => exact absurd h hnone
  | busy j stage =>
    cases stage with
    | arm => exact absurd h hnone
    | late => exact absurd h.left hnone
    | send => exact ⟨.inl rfl, hkind _ h.right⟩
    | asleep => exact ⟨.inl rfl, hkind _ h.right⟩
    | woken => exact ⟨.inl rfl, hkind _ h.right⟩
    | cancelling => exact ⟨.inl rfl, hkind _ h.right⟩

theorem dispatchFrame_keeps_slotFits (f : Frame) {s : State} (h : SlotFits s.block s.env.flow) :
    SlotFits (dispatchFrame f s).block (dispatchFrame f s).env.flow := by
  have hblock : SlotFits (dispatchFrame f s).block s.env.flow := by
    rcases dispatchFrame_block f s with hsame | ⟨e, -, hwait, hdelivered⟩
    · rwa [hsame]
    · rw [hdelivered]
      exact h.deliver hwait
  rcases (dispatchFrame_follows f s).flow with hflow | hflow <;> rw [hflow]
  · exact hblock
  · exact hblock.onWake

theorem exec_of_receive_keeps_slotFits {i : Instr} {s t : State} (hmay : mayInvoke .receive i = true)
    (hs : SlotFits s.block s.env.flow) (h : exec i s = .next t) : SlotFits t.block t.env.flow := by
  rcases (mayInvoke_iff _ _).mp hmay with hhome | ⟨f, rfl⟩
  · rcases (homeAgent_eq_receive_iff i).mp hhome with ⟨f, rfl⟩ | ⟨x, p, rfl⟩ | ⟨x, p, rfl⟩ <;> cases h
    · exact dispatchFrame_keeps_slotFits f hs
    · exact dispatchFrame_keeps_slotFits _ hs
    · exact dispatchFrame_keeps_slotFits _ hs
  · cases h
    exact hs

/-! The command flow -/

theorem Job.instr_not_touchesSlot (j : Job) : ¬ TouchesSlot j.instr := by
  rcases j with (_ | ⟨image, ours, _ | _ | i | _⟩) | b <;> simp [Job.instr, AckJob.instr, TouchesSlot]

/-- A command's frame leaves the slot as it is. -/
theorem exec_job_slot {j : Job} {s t : State} (h : exec j.instr s = .next t) :
    t.block.wait = s.block.wait ∧ t.block.evt = s.block.evt :=
  (theSlotHasThreeStates _ _ _ h).left j.instr_not_touchesSlot

theorem resumeFlow_keeps_slotFits {s t : State} (hs : SlotFits s.block s.env.flow) (h : resumeFlow s = .next t) :
    SlotFits t.block t.env.flow := by
  cases hf : s.env.flow with
  | idle =>
    rw [resumeFlow_of_idle hf] at h
    cases h
    exact hs
  | busy j stage =>
    rw [hf] at hs
    cases stage with
    | arm =>
      rw [resumeFlow_of_arm hf, exec_armWait_of_wait_eq_none hs] at h
      cases h
      exact ⟨.inr rfl, fun k hk => (Option.some.inj hk).symm, fun _ he => nomatch he⟩
    | send =>
      rw [resumeFlow_of_send hf] at h
      obtain ⟨u, hexec, hu⟩ := andThen_eq_next h
      cases hu
      obtain ⟨hwait, hevt⟩ := exec_job_slot hexec
      have hasleep : SlotFits u.block (.busy j .asleep) := SlotFits.congr (b := s.block) hs hwait hevt
      cases hsend : s.sendAccepted <;> exact hasleep
    | asleep =>
      rw [resumeFlow_of_asleep hf] at h
      cases h
      rw [hf]
      exact hs
    | woken =>
      obtain ⟨hexclusive, harmed, -⟩ := hs
      cases hsettle : j.settle s.block.evt s.taken with
      | none =>
        rw [resumeFlow_of_woken_unsettled hf hsettle] at h
        cases h
        exact ⟨.inr rfl, harmed, fun _ he => nomatch he⟩
      | some u =>
        rw [resumeFlow_of_settled (.inl hf) hsettle] at h
        cases h
        obtain ⟨hsettles, e, hevt, -⟩ := settle_eq_some hsettle
        exact hsettles.slotFits (hexclusive.resolve_right (by simp [hevt]))
    | late =>
      cases hsettle : j.settle s.block.evt s.taken with
      | none =>
        rw [resumeFlow_of_late_unsettled hf hsettle] at h
        cases h
        exact (failCall_settles _ _ _).slotFits hs.left
      | some u =>
        rw [resumeFlow_of_settled (.inr hf) hsettle] at h
        cases h
        exact (settle_eq_some hsettle).left.slotFits hs.left
    | cancelling =>
      rw [resumeFlow_of_cancelling hf] at h
      cases h
      exact (failCall_settles _ _ _).slotFits rfl

theorem deadlineFlow_keeps_slotFits {s t : State} (hs : SlotFits s.block s.env.flow) (h : deadlineFlow s = .next t) :
    SlotFits t.block t.env.flow := by
  rcases deadlineFlow_cases h with rfl | ⟨j, u, hf, hexec, ⟨-, hsettles⟩ | ⟨-, rfl⟩⟩
  · exact hs
  · cases hexec
    exact hsettles.slotFits rfl
  · cases hexec
    have hkind : FlowKind.SlotOfKind s.block j.kind := by
      rcases hf with hf | hf <;> rw [hf] at hs <;> exact hs.right
    exact ⟨rfl, fun _ hk => (nomatch hk), hkind.right⟩

/-- A shell call begins between calls, and ends between calls or about to arm. -/
theorem shellCall_keeps_slotFits {c : ShellCall} {s t : State} (hflow : s.env.flow = .idle)
    (hs : s.block.wait = none) (h : shellCall c s = .next t) : SlotFits t.block t.env.flow := by
  rcases shellCall_cases h with ⟨i, u, -, hexec, hwait, -, hblock, -, -, -, hend⟩ | ⟨hblock, -, -, -, hend⟩
  · have hidle : u.env.flow = .idle := by
      rcases (exec_follows hexec).flow with hu | hu <;> rw [hu, hflow]
      rfl
    exact slotFits_of_wait_eq_none (hend.imp_left hidle.subst) (by rw [hblock, hwait, hs])
  · exact slotFits_of_wait_eq_none (hend.imp_left fun he => he.trans hflow) (by rw [hblock, hs])

theorem hostAct_keeps_slotFits {a : HostAction} {s t : State} (hs : SlotFits s.block s.env.flow)
    (h : hostAct a s = .next t) : SlotFits t.block t.env.flow := by
  rcases hostAct_cases a s with ⟨u, hu, hblock, -, -, -, hflow⟩ | ⟨c, cs, hidle, hcall⟩ | hresume | hdeadline
  · rw [hu] at h
    cases h
    rwa [hblock, hflow]
  · rw [hidle] at hs
    exact shellCall_keeps_slotFits (s := s.setCalls cs) hidle hs (hcall ▸ h)
  · exact resumeFlow_keeps_slotFits hs (hresume ▸ h)
  · exact deadlineFlow_keeps_slotFits hs (hdeadline ▸ h)

/-- An entry of a host that acts through shell calls: the receive flow's, or a move of the host (R209). -/
theorem shellOnly_head_cases {inv : Invocation} {rest : List Invocation} (h : ShellOnly (inv :: rest)) :
    inv.agent = .receive ∨ ∃ a, inv = .host a := by
  cases inv with
  | operation a fmt bytes =>
    cases a with
    | command => exact absurd rfl (h _ List.mem_cons_self fmt bytes)
    | receive => exact .inl rfl
  | arrival f => exact .inl rfl
  | host a => exact .inr ⟨a, rfl⟩

theorem shellOnly_tail {inv : Invocation} {rest : List Invocation} (h : ShellOnly (inv :: rest)) : ShellOnly rest :=
  fun inv' hmem => h inv' (List.mem_cons_of_mem _ hmem)

theorem perform_of_receive_keeps_slotFits {inv : Invocation} (hagent : inv.agent = .receive) {s t : State}
    (hs : SlotFits s.block s.env.flow) (h : perform inv s = .next t) : SlotFits t.block t.env.flow := by
  cases inv with
  | operation a fmt bytes =>
    cases hagent
    obtain ⟨i, hexec, hmay⟩ := runRequest_cases h (by simp)
    exact exec_of_receive_keeps_slotFits hmay hs hexec
  | arrival f =>
    rcases receiveArrival_cases h with rfl | ⟨g, hexec⟩
    · exact hs
    · cases hexec
      exact dispatchFrame_keeps_slotFits g hs
  | host a => cases hagent

/-! DoubleArm -/

/-- A shell call never faults: none of its operations can (R203). -/
theorem shellCall_ne_fault (c : ShellCall) (s : State) (r : Fault) : shellCall c s ≠ .fault r := by
  intro h
  cases c with
  | erase => cases h
  | uploadImage file => cases file <;> cases h
  | queryChecksum => cases h
  | setTargetIdentifier id => unfold shellCall at h; dsimp only at h; split at h <;> cases h
  | setVerboseLogging flag => cases h

/-- A deadline never faults: CANCEL_WAIT cannot. -/
theorem deadlineFlow_ne_fault (s : State) (r : Fault) : deadlineFlow s ≠ .fault r := by
  by_cases hf : ∃ j, s.env.flow = .busy j .asleep ∨ s.env.flow = .busy j .woken
  · obtain ⟨j, hf⟩ := hf
    by_cases hwait : s.block.wait = none
    · simp [deadlineFlow_of_delivered hf hwait]
    · simp [deadlineFlow_of_armed hf hwait]
  · simp only [not_exists, not_or] at hf
    simp [deadlineFlow_of_not_suspended hf]

/-- A flow that arms only with nothing armed does not fault with DoubleArm. -/
theorem resumeFlow_ne_doubleArm {s : State} (hs : SlotFits s.block s.env.flow) : resumeFlow s ≠ .fault .doubleArm := by
  intro h
  cases hf : s.env.flow with
  | idle => rw [resumeFlow_of_idle hf] at h; cases h
  | busy j stage =>
    rw [hf] at hs
    cases stage with
    | arm => rw [resumeFlow_of_arm hf, exec_armWait_of_wait_eq_none hs] at h; cases h
    | send =>
      rw [resumeFlow_of_send hf] at h
      rcases andThen_eq_fault h with hexec | ⟨u, -, hu⟩
      · obtain ⟨k, hk, -⟩ := exec_doubleArm hexec
        exact j.instr_not_touchesSlot (.inr (.inl ⟨k, hk⟩))
      · cases hu
    | asleep => rw [resumeFlow_of_asleep hf] at h; cases h
    | woken =>
      cases hsettle : j.settle s.block.evt s.taken with
      | none => rw [resumeFlow_of_woken_unsettled hf hsettle] at h; cases h
      | some u => rw [resumeFlow_of_settled (.inl hf) hsettle] at h; cases h
    | late =>
      cases hsettle : j.settle s.block.evt s.taken with
      | none => rw [resumeFlow_of_late_unsettled hf hsettle] at h; cases h
      | some u => rw [resumeFlow_of_settled (.inr hf) hsettle] at h; cases h
    | cancelling => rw [resumeFlow_of_cancelling hf] at h; cases h

theorem hostAct_ne_doubleArm (a : HostAction) {s : State} (hs : SlotFits s.block s.env.flow) :
    hostAct a s ≠ .fault .doubleArm := by
  rcases hostAct_cases a s with ⟨u, hu, -⟩ | ⟨c, cs, -, hcall⟩ | hresume | hdeadline
  · rw [hu]
    exact nofun
  · rw [hcall]
    exact shellCall_ne_fault c _ _
  · rw [hresume]
    exact resumeFlow_ne_doubleArm hs
  · rw [hdeadline]
    exact deadlineFlow_ne_fault s _

/-! The statements -/

/-- Settles O58: the receive flow delivers only what is armed, and the host arms only with nothing armed. -/
theorem stepKeepsTheHostDiscipline : Obligations.StepKeepsTheHostDiscipline := by
  intro s t hs h
  rcases step_cases h with rfl | ⟨inv, rest, hagenda, hperform⟩
  · exact hs
  obtain ⟨hshell, hfits⟩ := (hostInv_iff s).mp hs
  rw [hagenda] at hshell
  have hrest : t.env.agenda = rest := (perform_extends hperform).agenda
  refine (hostInv_iff t).mpr ⟨hrest ▸ shellOnly_tail hshell, ?_⟩
  rcases shellOnly_head_cases hshell with hagent | ⟨a, rfl⟩
  · exact perform_of_receive_keeps_slotFits hagent (s := s.begin inv rest) hfits hperform
  · exact hostAct_keeps_slotFits (s := s.begin _ rest) hfits hperform

/-- Settles O59: after reset the host is between calls and nothing is armed. -/
theorem hostDisciplineHoldsAtReset : Obligations.HostDisciplineHoldsAtReset :=
  fun _ _ hshell => (hostInv_iff _).mpr ⟨hshell, rfl⟩

/-- Settles O60: the receive flow never faults, and the host arms only with nothing armed. -/
theorem hostNeverArmsTwice : Obligations.HostNeverArmsTwice := by
  intro s hs
  obtain ⟨hshell, hfits⟩ := (hostInv_iff s).mp hs
  cases hagenda : s.env.agenda with
  | nil =>
    rw [step_of_agenda_nil hagenda]
    exact nofun
  | cons inv rest =>
    rw [hagenda] at hshell
    rcases shellOnly_head_cases hshell with hagent | ⟨a, rfl⟩
    · exact (receiveFlowOnlyDelivers s inv rest hagenda hagent).left _
    · rw [step_of_agenda hagenda]
      exact hostAct_ne_doubleArm a (s := s.begin _ rest) hfits

end Sys2Proof.Machine
end

section
/-! PROOFS. A command of the host from arming to its answer or its end, and the upload's sequence (45_host_boundary.md R206 to
R217). -/

namespace Sys2Proof.Machine

open Sys2Proof.Safety

/-! Moves after an operation -/

theorem setFlow_eq_moves (s : State) (flow : Flow) : s.setFlow flow = moves s flow [] := by
  simp [State.setFlow, moves]

/-- A move after TAKE_EVENT outputs what was taken first. -/
theorem moves_taken (s : State) (flow : Flow) (os : List Output) :
    moves s.taken flow os =
      moves (withBlock s { s.block with evt := none }) flow (.returned s.env.turn (.event s.block.evt) :: os) := by
  simp [moves, State.taken, returns, outputs, withBlock]

/-- A move after CANCEL_WAIT outputs whether a wait was armed first. -/
theorem moves_cancelled (s : State) (flow : Flow) (os : List Output) :
    moves s.cancelled flow os =
      moves (withBlock s { s.block with wait := none }) flow
        (.returned s.env.turn (.wasArmed (decide (s.block.wait ≠ none))) :: os) := by
  simp [moves, State.cancelled, returns, outputs, withBlock]

/-- A write of WAIT with what it holds changes nothing. -/
theorem withBlock_wait_eq_self {s : State} {v : Option Kind} (h : s.block.wait = v) :
    withBlock s { s.block with wait := v } = s := by
  subst h
  rfl

/-! Answers -/

section
variable {s : State}

/-- An acknowledgement that a flow woken or late takes makes its command's move (R206). -/
theorem resumeFlow_of_ack {a : AckJob} {ok : Bool} {status : Byte}
    (hflow : s.env.flow = .busy (.ack a) .woken ∨ s.env.flow = .busy (.ack a) .late)
    (hevt : s.block.evt = some (.acknowledgement ok status)) :
    resumeFlow s = .next (moves (withBlock s { s.block with evt := none }) (ackMove a ok).1
      (.returned s.env.turn (.event s.block.evt) :: (ackMove a ok).2)) := by
  have hsettle : Job.settle (.ack a) s.block.evt s.taken = some (settleAck a ok s.taken) := by
    rw [hevt]
    rfl
  rw [resumeFlow_of_settled hflow hsettle, settleAck_eq_moves, moves_taken]

/-- A report that a flow woken or late takes ends its call (R208, R217). -/
theorem resumeFlow_of_report {b : SumJob} {v : Word32}
    (hflow : s.env.flow = .busy (.sum b) .woken ∨ s.env.flow = .busy (.sum b) .late)
    (hevt : s.block.evt = some (.checksumReport v)) :
    resumeFlow s = .next (moves (withBlock s { s.block with evt := none }) .idle
      [.returned s.env.turn (.event s.block.evt), .finished (sumOutcome b v)]) := by
  have hsettle : Job.settle (.sum b) s.block.evt s.taken = some (settleSum b v s.taken) := by
    rw [hevt]
    rfl
  rw [resumeFlow_of_settled hflow hsettle, settleSum_eq_moves, moves_taken]

end

/-! The statements -/

/-- Settles O56: one equation of the flow per stage, its operation and its move in the words of Safety. -/
theorem awaitEndsWithItsAnswerOrItsDeadline : Obligations.AwaitEndsWithItsAnswerOrItsDeadline := by
  intro s j
  refine ⟨fun rest hagenda hbusy => ?resume, fun rest hagenda => ?deadline,
    fun hf => ⟨fun hwait => ?arm, fun hwait => ?armed⟩, fun hf => ⟨fun t ht hcfg => ?send, fun ht => ?unset⟩,
    fun hf => ?asleep, fun hf => ⟨?erase, ?query⟩,
    fun hother => ⟨fun hf => ?woken, fun hf => ?late⟩, fun hf => ?cancelling,
    fun hf => ⟨fun hwait => ?timeout, fun hwait => ?delivered⟩⟩
  case resume =>
    rw [step_of_agenda hagenda]
    exact if_neg hbusy
  case deadline =>
    rw [step_of_agenda hagenda]
    rfl
  case arm =>
    refine ⟨j.kind, ?_, ?_, ?_⟩
    · rintro ⟨a, rfl⟩
      rfl
    · rintro ⟨b, rfl⟩
      rfl
    · rw [resumeFlow_of_arm hf, exec_armWait_of_wait_eq_none hwait, mapNext_next, setFlow_eq_moves]
  case armed =>
    rw [resumeFlow_of_arm hf, exec_armWait_of_wait_ne_none hwait]
    rfl
  case send =>
    rw [resumeFlow_of_send hf, job_sends ht hcfg, mapNext_next, setFlow_eq_moves, State.sendAccepted]
  case unset =>
    rw [resumeFlow_of_send hf, job_targetUnset ht]
    rfl
  case asleep => exact resumeFlow_of_asleep hf
  case erase =>
    rintro ok status rfl hevt
    rw [resumeFlow_of_ack hf hevt]
    cases ok <;> rfl
  case query =>
    rintro v rfl hevt
    exact resumeFlow_of_report hf hevt
  case woken =>
    rw [resumeFlow_of_woken_unsettled hf (settle_of_other_kind hother _), setFlow_eq_moves, moves_taken]
  case late =>
    rw [resumeFlow_of_late_unsettled hf (settle_of_other_kind hother _), failCall_eq, moves_taken]
  case cancelling =>
    rw [resumeFlow_of_cancelling hf, failCall_eq, moves_cancelled]
  case timeout =>
    rw [deadlineFlow_of_armed hf hwait, failCall_eq, moves_cancelled, decide_eq_true hwait]
  case delivered =>
    rw [deadlineFlow_of_delivered hf hwait, setFlow_eq_moves, moves_cancelled, withBlock_wait_eq_self hwait,
      decide_eq_false (not_not.mpr hwait)]

/-- Settles O57: the answer a phase takes makes its move; the two checksums are compared at the end. -/
theorem uploadFollowsItsSequence : Obligations.UploadFollowsItsSequence := by
  intro s image
  refine ⟨?begins, fun ours ph status hf => ⟨fun hevt => ?success, fun hevt => ?rejected⟩, fun _ _ => rfl,
    fun ours v hf hevt => ?verify⟩
  case begins =>
    rw [complement_checksumOf]
    rfl
  case success => exact resumeFlow_of_ack hf hevt
  case rejected => exact resumeFlow_of_ack hf hevt
  case verify => exact resumeFlow_of_report hf hevt

end Sys2Proof.Machine
end
